-- ==== Sys2Proof/Word.lean ====
section
/-! DEFINITION. The two widths of the machine: the 8-bit byte and the 16-bit word (spec R7, R17). -/

namespace Sys2Proof

/-- An 8-bit value: the addressable unit of memory, an accumulator A or B, the CCR (R7, R60). -/
abbrev Byte := BitVec 8

/-- A 16-bit value: an address, D, X, Y, SP or PC (R7). -/
abbrev Word := BitVec 16

end Sys2Proof
end

