-- ==== Sys2Proof/Syntax.lean ====
section
/-! DEFINITION. The operand forms and the instructions, one constructor for every mnemonic of spec/opcode_table.json. -/

namespace Sys2Proof

/-- The base register of an indexed form, the `rr` field of `xb` (R100). -/
inductive Base where
  | x | y | sp | pc
  deriving DecidableEq, Repr

/-- A register an auto increment/decrement form adjusts; never PC (R103, R145). -/
inductive AutoReg where
  | x | y | sp
  deriving DecidableEq, Repr

/-- The accumulator of an accumulator-offset form, the `aa` field of `xb` (R105). -/
inductive AccOfs where
  | a | b | d
  deriving DecidableEq, Repr

/-- The indexed forms, one constructor per class of `xb` with its extension bytes (R100). -/
inductive Idx where
  /-- IDX, 5-bit constant offset (R102, R146). -/
  | ofs5 (base : Base) (n : BitVec 5)
  /-- IDX, auto pre (`post = false`) or post (`post = true`) increment/decrement; `n` is the field `nnnn` (R103, R145). -/
  | auto (r : AutoReg) (post : Bool) (n : BitVec 4)
  /-- IDX, accumulator offset (R105, R149). -/
  | acc (base : Base) (off : AccOfs)
  /-- IDX1, 9-bit constant offset `s:ff` (R104, R148). -/
  | ofs9 (base : Base) (n : BitVec 9)
  /-- IDX2, 16-bit constant offset `ee:ff` (R104, R148). -/
  | ofs16 (base : Base) (n : Word)
  /-- [IDX2], indexed-indirect with a 16-bit offset (R106, R150). -/
  | ind16 (base : Base) (n : Word)
  /-- [D,IDX], indexed-indirect with offset D (R106, R150). -/
  | indD (base : Base)
  deriving DecidableEq, Repr

/-- The forms that have an effective address (R140, R141). -/
inductive Mem where
  /-- DIR, `$00:dd` (R144). -/
  | dir (dd : Byte)
  /-- EXT, `hh:ll` (R144). -/
  | ext (a : Word)
  | idx (i : Idx)
  deriving DecidableEq, Repr

/-- An 8-bit source operand: the immediate `ii` or a byte of memory (R142). -/
inductive Src8 where
  | imm (ii : Byte)
  | mem (m : Mem)
  deriving DecidableEq, Repr

/-- A 16-bit source operand: the immediate `jj:kk` or a word of memory (R142). -/
inductive Src16 where
  | imm (jjkk : Word)
  | mem (m : Mem)
  deriving DecidableEq, Repr

/-- The seven registers of TFR and EXG, class `abcdxys` (R13, R110). -/
inductive Reg where
  | a | b | ccr | d | x | y | sp
  deriving DecidableEq, Repr

/-- The counters of the loop primitives, class `abdxys` (R13, R115). -/
inductive Cntr where
  | a | b | d | x | y | sp
  deriving DecidableEq, Repr

/-- The 162 mnemonics (R125). The aliases of R130 have constructors too; their words decode to the core instruction. -/
inductive Instr where
  -- two-operand arithmetic, logic and loads (R171, R241, R300)
  | suba (op : Src8) | cmpa (op : Src8) | sbca (op : Src8) | anda (op : Src8) | bita (op : Src8)
  | ldaa (op : Src8) | eora (op : Src8) | adca (op : Src8) | oraa (op : Src8) | adda (op : Src8)
  | subb (op : Src8) | cmpb (op : Src8) | sbcb (op : Src8) | andb (op : Src8) | bitb (op : Src8)
  | ldab (op : Src8) | eorb (op : Src8) | adcb (op : Src8) | orab (op : Src8) | addb (op : Src8)
  | subd (op : Src16) | addd (op : Src16) | cpd (op : Src16) | cpy (op : Src16) | cpx (op : Src16)
  | cps (op : Src16) | ldd (op : Src16) | ldy (op : Src16) | ldx (op : Src16) | lds (op : Src16)
  -- stores (R178)
  | staa (m : Mem) | stab (m : Mem) | std (m : Mem) | sty (m : Mem) | stx (m : Mem) | sts (m : Mem)
  -- one-operand memory forms (R245, R279, R282)
  | neg (m : Mem) | com (m : Mem) | inc (m : Mem) | dec (m : Mem) | lsr (m : Mem) | rol (m : Mem)
  | ror (m : Mem) | asr (m : Mem) | asl (m : Mem) | lsl (m : Mem) | clr (m : Mem) | tst (m : Mem)
  -- one-operand accumulator forms
  | nega | negb | coma | comb | inca | incb | deca | decb | lsra | lsrb | rola | rolb | rora | rorb
  | asra | asrb | asla | aslb | lsla | lslb | asld | lsld | lsrd | clra | clrb | tsta | tstb
  -- stack (R209)
  | psha | pshb | pshc | pshd | pshx | pshy | pula | pulb | pulc | puld | pulx | puly
  -- inherent arithmetic and transfers
  | mul | dex | dey | inx | iny | nop | aba | daa | tab | tba | idiv | fdiv | sba | cba
  -- load effective address and its aliases (R185)
  | leay (i : Idx) | leax (i : Idx) | leas (i : Idx) | abx | aby | des | ins
  -- moves, source first (R193)
  | movb (src : Src8) (dst : Mem) | movw (src : Src16) (dst : Mem)
  -- transfers and exchanges (R222) and their aliases
  | tfr (r1 r2 : Reg) | exg (r1 r2 : Reg) | tap | tpa | tsx | tsy | txs | tys | xgdx | xgdy
  -- condition codes (R312) and their aliases
  | andcc (ii : Byte) | orcc (ii : Byte) | clc | cli | clv | sec | sei | sev
  -- bit manipulation (R320, R390)
  | bclr (m : Mem) (mm : Byte) | bset (m : Mem) (mm : Byte)
  | brclr (m : Mem) (mm rr : Byte) | brset (m : Mem) (mm rr : Byte)
  -- branches (R371)
  | bra (rr : Byte) | bhi (rr : Byte) | bls (rr : Byte) | bcc (rr : Byte) | bcs (rr : Byte)
  | bne (rr : Byte) | beq (rr : Byte) | bvc (rr : Byte) | bvs (rr : Byte) | bpl (rr : Byte)
  | bmi (rr : Byte) | bge (rr : Byte) | blt (rr : Byte) | bgt (rr : Byte) | ble (rr : Byte)
  | bhs (rr : Byte) | blo (rr : Byte)
  -- jumps and subroutines (R393)
  | jmp (m : Mem) | jsr (m : Mem) | bsr (rr : Byte) | rts
  -- loop primitives (R400)
  | dbeq (c : Cntr) (rel : BitVec 9) | dbne (c : Cntr) (rel : BitVec 9) | tbeq (c : Cntr) (rel : BitVec 9)
  | tbne (c : Cntr) (rel : BitVec 9) | ibeq (c : Cntr) (rel : BitVec 9) | ibne (c : Cntr) (rel : BitVec 9)
  -- system (R420)
  | swi | rti | stop
  deriving DecidableEq, Repr

end Sys2Proof
end

