-- ==== Sys2Proof/WellFormed.lean ====
section
/-! DEFINITION. Which terms of `Instr` the table has a row for: the address modes each mnemonic accepts (R107). -/

namespace Sys2Proof

/-- The two indexed-indirect classes, [IDX2] and [D,IDX] (R106). -/
def Idx.indirect : Idx → Bool
  | .ind16 _ _ | .indD _ => true
  | .ofs5 _ _ | .auto _ _ _ | .acc _ _ | .ofs9 _ _ | .ofs16 _ _ => false

/-- The class IDX of the table: an indexed form with no extension bytes and no indirection (R14, R107(c)). -/
def Idx.short : Idx → Bool
  | .ofs5 _ _ | .auto _ _ _ | .acc _ _ => true
  | .ofs9 _ _ | .ofs16 _ _ | .ind16 _ _ | .indD _ => false

/-- Rows without a DIR form: the one-operand memory instructions and JMP (R245, R393). -/
def Mem.notDir : Mem → Bool
  | .dir _ => false
  | .ext _ | .idx _ => true

/-- Rows without the indirect classes: BCLR, BSET, BRCLR, BRSET (R107(b), R320, R390). -/
def Mem.notIndirect : Mem → Bool
  | .idx i => !i.indirect
  | .dir _ | .ext _ => true

/-- A memory operand of MOVB and MOVW: EXT, or IDX with no extension bytes (R193). -/
def Mem.moveOperand : Mem → Bool
  | .dir _ => false
  | .ext _ => true
  | .idx i => i.short

/-- A source operand of MOVB (R194). -/
def Src8.moveOperand : Src8 → Bool
  | .imm _ => true
  | .mem m => m.moveOperand

/-- A source operand of MOVW (R195). -/
def Src16.moveOperand : Src16 → Bool
  | .imm _ => true
  | .mem m => m.moveOperand

/-- The instruction has a row in the table: its operands are of modes its mnemonic accepts (R107, R185, R193, R245, R320, R390). -/
def Instr.wellFormed : Instr → Bool
  | .neg m | .com m | .inc m | .dec m | .lsr m | .rol m | .ror m | .asr m | .asl m | .lsl m
  | .clr m | .tst m | .jmp m => m.notDir
  | .leay i | .leax i | .leas i => !i.indirect
  | .movb src dst => src.moveOperand && dst.moveOperand
  | .movw src dst => src.moveOperand && dst.moveOperand
  | .bclr m _ | .bset m _ | .brclr m _ _ | .brset m _ _ => m.notIndirect
  | .suba _ | .cmpa _ | .sbca _ | .anda _ | .bita _ | .ldaa _ | .eora _ | .adca _ | .oraa _ | .adda _
  | .subb _ | .cmpb _ | .sbcb _ | .andb _ | .bitb _ | .ldab _ | .eorb _ | .adcb _ | .orab _ | .addb _
  | .subd _ | .addd _ | .cpd _ | .cpy _ | .cpx _ | .cps _ | .ldd _ | .ldy _ | .ldx _ | .lds _
  | .staa _ | .stab _ | .std _ | .sty _ | .stx _ | .sts _ | .jsr _
  | .nega | .negb | .coma | .comb | .inca | .incb | .deca | .decb | .lsra | .lsrb | .rola | .rolb
  | .rora | .rorb | .asra | .asrb | .asla | .aslb | .lsla | .lslb | .asld | .lsld | .lsrd
  | .clra | .clrb | .tsta | .tstb
  | .psha | .pshb | .pshc | .pshd | .pshx | .pshy | .pula | .pulb | .pulc | .puld | .pulx | .puly
  | .mul | .dex | .dey | .inx | .iny | .nop | .aba | .daa | .tab | .tba | .idiv | .fdiv | .sba | .cba
  | .abx | .aby | .des | .ins
  | .tfr _ _ | .exg _ _ | .tap | .tpa | .tsx | .tsy | .txs | .tys | .xgdx | .xgdy
  | .andcc _ | .orcc _ | .clc | .cli | .clv | .sec | .sei | .sev
  | .bra _ | .bhi _ | .bls _ | .bcc _ | .bcs _ | .bne _ | .beq _ | .bvc _ | .bvs _ | .bpl _ | .bmi _
  | .bge _ | .blt _ | .bgt _ | .ble _ | .bhs _ | .blo _ | .bsr _ | .rts
  | .dbeq _ _ | .dbne _ _ | .tbeq _ _ | .tbne _ _ | .ibeq _ _ | .ibne _ _
  | .swi | .rti | .stop => true

end Sys2Proof
end

