-- ==== Sys2Proof/Decode.lean ====
section
/-! DEFINITION. The decoder, total on any bytes and rejecting by name, and after it the encoder; both from the
encoding tables of 30_encoding.md. -/

namespace Sys2Proof

/-! ## Bytes, words and fields -/

/-- A 16-bit value from its bytes, the high-order byte first (R64, R65). -/
def mkWord (hi lo : Byte) : Word := hi ++ lo

/-- The high-order byte of a 16-bit value. -/
def hiByte (w : Word) : Byte := w.extractLsb' 8 8

/-- The low-order byte of a 16-bit value. -/
def loByte (w : Word) : Byte := w.extractLsb' 0 8

/-- Why no instruction could be read. -/
inductive DecodeError where
  /-- The bytes begin an unlisted encoding (R127); `bytes` are the opcode and post-bytes that decide it. -/
  | illegal (bytes : List Byte)
  /-- The list of bytes ends inside the instruction. -/
  | truncated
  deriving DecidableEq, Repr

/-- A reader of one part of an instruction: what it read and the bytes after it. -/
abbrev Take (α : Type) := List Byte → Except DecodeError (α × List Byte)

/-- One byte: `ii`, `dd`, `mm`, `rr`, `ff` (R93). -/
def takeByte : Take Byte
  | [] => .error .truncated
  | b :: bs => .ok (b, bs)

/-- Two bytes, high first: `hh ll`, `jj kk`, `ee ff` (R65, R93). -/
def takeWord : Take Word
  | hi :: lo :: bs => .ok (mkWord hi lo, bs)
  | [_] | [] => .error .truncated

/-- The base register of the two-bit field `rr` of `xb` (R100). -/
def Base.ofCode (c : BitVec 2) : Base :=
  match c.toNat with
  | 0 => .x
  | 1 => .y
  | 2 => .sp
  | _ => .pc

/-- The auto-adjusted register of the field `rr`; `11` is none (R103). -/
def AutoReg.ofCode (c : BitVec 2) : Option AutoReg :=
  match c.toNat with
  | 0 => some .x
  | 1 => some .y
  | 2 => some .sp
  | _ => none

/-- The indexed form that the post-byte `xb` and its extension bytes select (R100 to R106). All 256 values are legal. -/
def takeIdx : Take Idx
  | [] => .error .truncated
  | xb :: bs =>
    if xb.getLsbD 5 = false then
      .ok (.ofs5 (Base.ofCode (xb.extractLsb' 6 2)) (xb.extractLsb' 0 5), bs)
    else
      match AutoReg.ofCode (xb.extractLsb' 6 2) with
      | some r => .ok (.auto r (xb.getLsbD 4) (xb.extractLsb' 0 4), bs)
      | none =>
        let base := Base.ofCode (xb.extractLsb' 3 2)
        match (xb.extractLsb' 0 3).toNat with
        | 0 | 1 => do
          let (ff, bs) ← takeByte bs
          .ok (.ofs9 base (xb.extractLsb' 0 1 ++ ff), bs)
        | 2 => do
          let (eeff, bs) ← takeWord bs
          .ok (.ofs16 base eeff, bs)
        | 3 => do
          let (eeff, bs) ← takeWord bs
          .ok (.ind16 base eeff, bs)
        | 4 => .ok (.acc base .a, bs)
        | 5 => .ok (.acc base .b, bs)
        | 6 => .ok (.acc base .d, bs)
        | _ => .ok (.indD base, bs)

/-- `xb` is of class [IDX2] or [D,IDX]: `111 rr · 1 1` (R106, R124). -/
def xbIndirect (xb : Byte) : Bool := xb &&& 0xE3 == 0xE3

/-- `xb` is of class IDX, with no extension bytes and no indirection: not `111 rr 0 · ·` and not `111 rr 1 1 1` (R100, R124). -/
def xbShort (xb : Byte) : Bool := xb &&& 0xE4 != 0xE0 && xb &&& 0xE7 != 0xE7

/-- An `xb` of a non-indirect class (R107(b)); the indirect classes are unlisted here (D31). -/
def takeIdxDirect : Take Idx
  | [] => .error .truncated
  | xb :: bs => if xbIndirect xb then .error (.illegal [xb]) else takeIdx (xb :: bs)

/-- An `xb` of the no-extension class IDX (R107(c)); the other classes are unlisted here (D31). -/
def takeIdxShort : Take Idx
  | [] => .error .truncated
  | xb :: bs => if xbShort xb then takeIdx (xb :: bs) else .error (.illegal [xb])

/-- The DIR operand `dd` (R144). -/
def takeDir : Take Mem := fun bs => do
  let (dd, bs) ← takeByte bs
  .ok (.dir dd, bs)

/-- The EXT operand `hh ll` (R144). -/
def takeExt : Take Mem := fun bs => do
  let (a, bs) ← takeWord bs
  .ok (.ext a, bs)

/-- An indexed operand of any class (R107(a)). -/
def takeMemIdx : Take Mem := fun bs => do
  let (i, bs) ← takeIdx bs
  .ok (.idx i, bs)

/-- An indexed operand of a non-indirect class (R107(b)). -/
def takeMemIdxDirect : Take Mem := fun bs => do
  let (i, bs) ← takeIdxDirect bs
  .ok (.idx i, bs)

/-- An indexed operand of the no-extension class (R107(c)). -/
def takeMemIdxShort : Take Mem := fun bs => do
  let (i, bs) ← takeIdxShort bs
  .ok (.idx i, bs)

/-- The register of a three-bit code of `eb`; code 3 is unlisted (R110, D14). -/
def Reg.ofCode (c : BitVec 3) : Option Reg :=
  match c.toNat with
  | 0 => some .a
  | 1 => some .b
  | 2 => some .ccr
  | 4 => some .d
  | 5 => some .x
  | 6 => some .y
  | 7 => some .sp
  | _ => none

/-- The counter of a three-bit code of `lb`; codes 2 and 3 are unlisted (R115, D30). -/
def Cntr.ofCode (c : BitVec 3) : Option Cntr :=
  match c.toNat with
  | 0 => some .a
  | 1 => some .b
  | 4 => some .d
  | 5 => some .x
  | 6 => some .y
  | 7 => some .sp
  | _ => none

/-- The loop primitive of `lb[7:5]`; 110 and 111 are unlisted (R115, D30). -/
def loopOfCode (c : BitVec 3) : Option (Cntr → BitVec 9 → Instr) :=
  match c.toNat with
  | 0 => some .dbeq
  | 1 => some .dbne
  | 2 => some .tbeq
  | 3 => some .tbne
  | 4 => some .ibeq
  | 5 => some .ibne
  | _ => none

/-! ## The formats of R91 -/

/-- Format INH: nothing after the opcode. -/
def fInh (i : Instr) : Take Instr := fun bs => .ok (i, bs)

/-- Formats IMM8 and REL8: one byte after the opcode. -/
def fByte (f : Byte → Instr) : Take Instr := fun bs => do
  let (b, bs) ← takeByte bs
  .ok (f b, bs)

/-- Format IMM16. -/
def fWord (f : Word → Instr) : Take Instr := fun bs => do
  let (w, bs) ← takeWord bs
  .ok (f w, bs)

/-- Formats DIR, EXT, IDX, IDX1, IDX2, [D,IDX], [IDX2]. -/
def fMem (t : Take Mem) (f : Mem → Instr) : Take Instr := fun bs => do
  let (m, bs) ← t bs
  .ok (f m, bs)

/-- The formats of LEAS, LEAX, LEAY (R185). -/
def fLea (f : Idx → Instr) : Take Instr := fun bs => do
  let (i, bs) ← takeIdxDirect bs
  .ok (f i, bs)

/-- Formats BM-*: the operand, then the mask (R320). -/
def fBitMem (t : Take Mem) (f : Mem → Byte → Instr) : Take Instr := fun bs => do
  let (m, bs) ← t bs
  let (mm, bs) ← takeByte bs
  .ok (f m mm, bs)

/-- Formats BB-*: the operand, the mask, then the offset (R390). -/
def fBitBranch (t : Take Mem) (f : Mem → Byte → Byte → Instr) : Take Instr := fun bs => do
  let (m, bs) ← t bs
  let (mm, bs) ← takeByte bs
  let (rr, bs) ← takeByte bs
  .ok (f m mm rr, bs)

/-- Moves whose first bytes are the source's: IMM-EXT, EXT-EXT, IDX-EXT, IDX-IDX (R91, R154). -/
def fMoveSrcFirst {α : Type} (tSrc : Take α) (tDst : Take Mem) (f : α → Mem → Instr) : Take Instr := fun bs => do
  let (src, bs) ← tSrc bs
  let (dst, bs) ← tDst bs
  .ok (f src dst, bs)

/-- Moves whose destination `xb` comes first: IMM-IDX, EXT-IDX (R91, R154). -/
def fMoveDstFirst {α : Type} (tSrc : Take α) (f : α → Mem → Instr) : Take Instr := fun bs => do
  let (dst, bs) ← takeMemIdxShort bs
  let (src, bs) ← tSrc bs
  .ok (f src dst, bs)

/-- Format XFER: the post-byte `eb` (R110). -/
def fXfer : Take Instr
  | [] => .error .truncated
  | eb :: bs =>
    match Reg.ofCode (eb.extractLsb' 4 3), Reg.ofCode (eb.extractLsb' 0 3) with
    | some r1, some r2 =>
      if eb.getLsbD 3 then .error (.illegal [eb])
      else .ok (if eb.getLsbD 7 then .exg r1 r2 else .tfr r1 r2, bs)
    | _, _ => .error (.illegal [eb])

/-- Format REL9: the post-byte `lb` and the offset's low byte; `lb[4]` is the offset's sign (R97, R115). -/
def fLoop : Take Instr
  | [] => .error .truncated
  | lb :: bs =>
    match loopOfCode (lb.extractLsb' 5 3), Cntr.ofCode (lb.extractLsb' 0 3) with
    | some f, some c =>
      if lb.getLsbD 3 then .error (.illegal [lb])
      else do
        let (rr, bs) ← takeByte bs
        .ok (f c (lb.extractLsb' 4 1 ++ rr), bs)
    | _, _ => .error (.illegal [lb])

/-! ## The opcode maps -/

/-- A row of an opcode map: the opcode byte and the reader of what follows it. -/
abbrev OpRow := Nat × Take Instr

/-- The eight forms of a two-operand instruction on an 8-bit register, `o` the IMM opcode (R171, R241). -/
def rows8 (o : Nat) (f : Src8 → Instr) : List OpRow :=
  [ (o, fByte fun ii => f (.imm ii)),
    (o + 0x10, fMem takeDir fun m => f (.mem m)),
    (o + 0x20, fMem takeMemIdx fun m => f (.mem m)),
    (o + 0x30, fMem takeExt fun m => f (.mem m)) ]

/-- The eight forms of a two-operand instruction on a 16-bit register, `o` the IMM opcode (R171, R241). -/
def rows16 (o : Nat) (f : Src16 → Instr) : List OpRow :=
  [ (o, fWord fun jjkk => f (.imm jjkk)),
    (o + 0x10, fMem takeDir fun m => f (.mem m)),
    (o + 0x20, fMem takeMemIdx fun m => f (.mem m)),
    (o + 0x30, fMem takeExt fun m => f (.mem m)) ]

/-- The seven forms of a store, `o` the DIR opcode (R178). -/
def rowsStore (o : Nat) (f : Mem → Instr) : List OpRow :=
  [ (o, fMem takeDir f), (o + 0x10, fMem takeMemIdx f), (o + 0x20, fMem takeExt f) ]

/-- The memory and accumulator forms of a one-operand instruction, `n` the low nibble of its opcodes (R245). -/
def rowsRmw (n : Nat) (f : Mem → Instr) (onA onB : Instr) : List OpRow :=
  [ (0x40 + n, fInh onA), (0x50 + n, fInh onB), (0x60 + n, fMem takeMemIdx f), (0x70 + n, fMem takeExt f) ]

/-- Page 1 (R120). Alias mnemonics have no row of their own: their words are the core instruction's (R123, R130). -/
def page1 : List OpRow :=
  -- $80 to $BF and $C0 to $FF (R122)
  rows8 0x80 .suba ++ rows8 0x81 .cmpa ++ rows8 0x82 .sbca ++ rows16 0x83 .subd ++ rows8 0x84 .anda ++
  rows8 0x85 .bita ++ rows8 0x86 .ldaa ++ rows8 0x88 .eora ++ rows8 0x89 .adca ++ rows8 0x8A .oraa ++
  rows8 0x8B .adda ++ rows16 0x8C .cpd ++ rows16 0x8D .cpy ++ rows16 0x8E .cpx ++ rows16 0x8F .cps ++
  rows8 0xC0 .subb ++ rows8 0xC1 .cmpb ++ rows8 0xC2 .sbcb ++ rows16 0xC3 .addd ++ rows8 0xC4 .andb ++
  rows8 0xC5 .bitb ++ rows8 0xC6 .ldab ++ rows8 0xC8 .eorb ++ rows8 0xC9 .adcb ++ rows8 0xCA .orab ++
  rows8 0xCB .addb ++ rows16 0xCC .ldd ++ rows16 0xCD .ldy ++ rows16 0xCE .ldx ++ rows16 0xCF .lds ++
  -- the x7 column of $80 to $FF
  [ (0x87, fInh .clra), (0x97, fInh .tsta), (0xA7, fInh .nop), (0xB7, fXfer),
    (0xC7, fInh .clrb), (0xD7, fInh .tstb), (0xE7, fMem takeMemIdx .tst), (0xF7, fMem takeExt .tst) ] ++
  -- $40 to $7F
  rowsRmw 0 .neg .nega .negb ++ rowsRmw 1 .com .coma .comb ++ rowsRmw 2 .inc .inca .incb ++
  rowsRmw 3 .dec .deca .decb ++ rowsRmw 4 .lsr .lsra .lsrb ++ rowsRmw 5 .rol .rola .rolb ++
  rowsRmw 6 .ror .rora .rorb ++ rowsRmw 7 .asr .asra .asrb ++ rowsRmw 8 .asl .asla .aslb ++
  [ (0x49, fInh .lsrd), (0x59, fInh .asld), (0x69, fMem takeMemIdx .clr), (0x79, fMem takeExt .clr) ] ++
  rowsStore 0x5A .staa ++ rowsStore 0x5B .stab ++ rowsStore 0x5C .std ++
  rowsStore 0x5D .sty ++ rowsStore 0x5E .stx ++ rowsStore 0x5F .sts ++
  [ (0x4C, fBitMem takeDir .bset), (0x4D, fBitMem takeDir .bclr),
    (0x4E, fBitBranch takeDir .brset), (0x4F, fBitBranch takeDir .brclr) ] ++
  -- $00 to $1F
  [ (0x02, fInh .iny), (0x03, fInh .dey), (0x04, fLoop), (0x05, fMem takeMemIdx .jmp), (0x06, fMem takeExt .jmp),
    (0x07, fByte .bsr), (0x08, fInh .inx), (0x09, fInh .dex), (0x0B, fInh .rti),
    (0x0C, fBitMem takeMemIdxDirect .bset), (0x0D, fBitMem takeMemIdxDirect .bclr),
    (0x0E, fBitBranch takeMemIdxDirect .brset), (0x0F, fBitBranch takeMemIdxDirect .brclr),
    (0x10, fByte .andcc), (0x12, fInh .mul), (0x14, fByte .orcc), (0x15, fMem takeMemIdx .jsr),
    (0x16, fMem takeExt .jsr), (0x17, fMem takeDir .jsr), (0x19, fLea .leay), (0x1A, fLea .leax), (0x1B, fLea .leas),
    (0x1C, fBitMem takeExt .bset), (0x1D, fBitMem takeExt .bclr),
    (0x1E, fBitBranch takeExt .brset), (0x1F, fBitBranch takeExt .brclr) ] ++
  -- $20 to $2F (R372)
  [ (0x20, fByte .bra), (0x22, fByte .bhi), (0x23, fByte .bls), (0x24, fByte .bcc), (0x25, fByte .bcs),
    (0x26, fByte .bne), (0x27, fByte .beq), (0x28, fByte .bvc), (0x29, fByte .bvs), (0x2A, fByte .bpl),
    (0x2B, fByte .bmi), (0x2C, fByte .bge), (0x2D, fByte .blt), (0x2E, fByte .bgt), (0x2F, fByte .ble) ] ++
  -- $30 to $3F
  [ (0x30, fInh .pulx), (0x31, fInh .puly), (0x32, fInh .pula), (0x33, fInh .pulb), (0x34, fInh .pshx),
    (0x35, fInh .pshy), (0x36, fInh .psha), (0x37, fInh .pshb), (0x38, fInh .pulc), (0x39, fInh .pshc),
    (0x3A, fInh .puld), (0x3B, fInh .pshd), (0x3D, fInh .rts), (0x3F, fInh .swi) ]

/-- An 8-bit immediate source. -/
def takeImm8 : Take Src8 := fun bs => do
  let (ii, bs) ← takeByte bs
  .ok (.imm ii, bs)

/-- A 16-bit immediate source. -/
def takeImm16 : Take Src16 := fun bs => do
  let (w, bs) ← takeWord bs
  .ok (.imm w, bs)

/-- A memory operand as an 8-bit source. -/
def takeSrc8 (t : Take Mem) : Take Src8 := fun bs => do
  let (m, bs) ← t bs
  .ok (.mem m, bs)

/-- A memory operand as a 16-bit source. -/
def takeSrc16 (t : Take Mem) : Take Src16 := fun bs => do
  let (m, bs) ← t bs
  .ok (.mem m, bs)

/-- Page 2: the opcodes after the byte $18 (R92, R121). -/
def page2 : List OpRow :=
  [ (0x00, fMoveDstFirst takeImm16 .movw),
    (0x01, fMoveDstFirst (takeSrc16 takeExt) .movw),
    (0x02, fMoveSrcFirst (takeSrc16 takeMemIdxShort) takeMemIdxShort .movw),
    (0x03, fMoveSrcFirst takeImm16 takeExt .movw),
    (0x04, fMoveSrcFirst (takeSrc16 takeExt) takeExt .movw),
    (0x05, fMoveSrcFirst (takeSrc16 takeMemIdxShort) takeExt .movw),
    (0x06, fInh .aba),
    (0x07, fInh .daa),
    (0x08, fMoveDstFirst takeImm8 .movb),
    (0x09, fMoveDstFirst (takeSrc8 takeExt) .movb),
    (0x0A, fMoveSrcFirst (takeSrc8 takeMemIdxShort) takeMemIdxShort .movb),
    (0x0B, fMoveSrcFirst takeImm8 takeExt .movb),
    (0x0C, fMoveSrcFirst (takeSrc8 takeExt) takeExt .movb),
    (0x0D, fMoveSrcFirst (takeSrc8 takeMemIdxShort) takeExt .movb),
    (0x0E, fInh .tab), (0x0F, fInh .tba), (0x10, fInh .idiv), (0x11, fInh .fdiv),
    (0x16, fInh .sba), (0x17, fInh .cba), (0x3E, fInh .stop) ]

/-- Puts the opcode bytes in front of the bytes an error names. -/
def underOpcode (op : List Byte) : Except DecodeError (Instr × List Byte) → Except DecodeError (Instr × List Byte)
  | .error (.illegal bytes) => .error (.illegal (op ++ bytes))
  | .error .truncated => .error .truncated
  | .ok r => .ok r

/-- Reads on page `page` after the opcode byte `op`; an opcode with no row is unlisted (R126, R127). -/
def decodeOn (page : List OpRow) (shown : List Byte) (op : Byte) : Take Instr := fun bs =>
  match page.lookup op.toNat with
  | some f => underOpcode (shown ++ [op]) (f bs)
  | none => .error (.illegal (shown ++ [op]))

/-- The instruction at the head of a list of bytes in memory order, and the bytes after it (R90, R129).
The byte $18 sends the next byte to page 2 (R92). -/
def decode : Take Instr
  | [] => .error .truncated
  | op :: bs =>
    if op = 0x18 then
      match bs with
      | [] => .error .truncated
      | op2 :: bs => decodeOn page2 [op] op2 bs
    else decodeOn page1 [] op bs

/-- The bytes of `w`, its least significant byte first, `n` of them. -/
def bytesOfNat : Nat → Nat → List Byte
  | 0, _ => []
  | n + 1, w => BitVec.ofNat 8 w :: bytesOfNat n (w / 256)

/-- An instruction's bytes from a table word: the first byte in memory is the word's least significant byte, and
what lies above `nbits` is 0, up to the longest instruction, six bytes (R91). -/
def tableBytes (nbits w : Nat) : List Byte := bytesOfNat 6 (w % 2 ^ nbits)

/-- The instruction the decoder reads from an opcode-table word. -/
def decodeTableWord (nbits w : Nat) : Option Instr :=
  match decode (tableBytes nbits w) with
  | .ok (i, _) => some i
  | .error _ => none

/-! ## The encoder -/

/-- The field `rr` of a base register (R100). -/
def Base.code : Base → BitVec 2
  | .x => 0
  | .y => 1
  | .sp => 2
  | .pc => 3

/-- The field `rr` of an auto-adjusted register (R103). -/
def AutoReg.code : AutoReg → BitVec 2
  | .x => 0
  | .y => 1
  | .sp => 2

/-- The field `aa` of an accumulator offset (R105). -/
def AccOfs.code : AccOfs → BitVec 2
  | .a => 0
  | .b => 1
  | .d => 2

/-- A one-bit field. -/
def bit (b : Bool) : BitVec 1 := BitVec.ofBool b

/-- A word as bytes, high first (R65). -/
def wordBytes (w : Word) : List Byte := [hiByte w, loByte w]

/-- `xb` and its extension bytes (R100). -/
def Idx.encode : Idx → List Byte
  | .ofs5 base n => [base.code ++ (0#1 : BitVec 1) ++ n]
  | .auto r post n => [r.code ++ (1#1 : BitVec 1) ++ bit post ++ n]
  | .acc base off => [(7#3 : BitVec 3) ++ base.code ++ (1#1 : BitVec 1) ++ off.code]
  | .ofs9 base n => [(7#3 : BitVec 3) ++ base.code ++ (0#2 : BitVec 2) ++ n.extractLsb' 8 1, n.extractLsb' 0 8]
  | .ofs16 base n => ((7#3 : BitVec 3) ++ base.code ++ (2#3 : BitVec 3)) :: wordBytes n
  | .ind16 base n => ((7#3 : BitVec 3) ++ base.code ++ (3#3 : BitVec 3)) :: wordBytes n
  | .indD base => [(7#3 : BitVec 3) ++ base.code ++ (7#3 : BitVec 3)]

/-- The operand bytes of a memory form. -/
def Mem.encode : Mem → List Byte
  | .dir dd => [dd]
  | .ext a => wordBytes a
  | .idx i => i.encode

/-- A memory form after the opcode its mode selects; `dir`, `ext` and `idx` are the three opcodes. -/
def Mem.encodeOp (dir ext idx : Byte) : Mem → List Byte
  | .dir dd => [dir, dd]
  | .ext a => ext :: wordBytes a
  | .idx i => idx :: i.encode

/-- The forms of R171 and R241, `o` the IMM opcode. -/
def Src8.encodeOp (o : Byte) : Src8 → List Byte
  | .imm ii => [o, ii]
  | .mem m => m.encodeOp (o + 0x10) (o + 0x30) (o + 0x20)

/-- The forms of R171 and R241, `o` the IMM opcode. -/
def Src16.encodeOp (o : Byte) : Src16 → List Byte
  | .imm w => o :: wordBytes w
  | .mem m => m.encodeOp (o + 0x10) (o + 0x30) (o + 0x20)

/-- The forms of R178, `o` the DIR opcode. -/
def storeBytes (o : Byte) (m : Mem) : List Byte := m.encodeOp o (o + 0x20) (o + 0x10)

/-- The memory forms of R245, `n` the low nibble of the opcodes; there is no DIR form. -/
def rmwBytes (n : Byte) (m : Mem) : List Byte := m.encodeOp 0 (0x70 + n) (0x60 + n)

/-- The three-bit code of a register in `eb` (R110). -/
def Reg.code : Reg → BitVec 3
  | .a => 0
  | .b => 1
  | .ccr => 2
  | .d => 4
  | .x => 5
  | .y => 6
  | .sp => 7

/-- The three-bit code of a counter in `lb` (R115). -/
def Cntr.code : Cntr → BitVec 3
  | .a => 0
  | .b => 1
  | .d => 4
  | .x => 5
  | .y => 6
  | .sp => 7

/-- `B7 eb` (R110). -/
def xferBytes (exchange : Bool) (r1 r2 : Reg) : List Byte :=
  [0xB7, bit exchange ++ r1.code ++ (0#1 : BitVec 1) ++ r2.code]

/-- `04 lb rr` (R115). -/
def loopBytes (op : BitVec 3) (c : Cntr) (rel : BitVec 9) : List Byte :=
  [0x04, op ++ rel.extractLsb' 8 1 ++ (0#1 : BitVec 1) ++ c.code, rel.extractLsb' 0 8]

/-- MOVB (R91, R194). -/
def movbBytes : Src8 → Mem → List Byte
  | .imm ii, .idx d => [0x18, 0x08] ++ d.encode ++ [ii]
  | .imm ii, d => [0x18, 0x0B, ii] ++ d.encode
  | .mem (.idx i), .idx d => [0x18, 0x0A] ++ i.encode ++ d.encode
  | .mem (.idx i), d => [0x18, 0x0D] ++ i.encode ++ d.encode
  | .mem m, .idx d => [0x18, 0x09] ++ d.encode ++ m.encode
  | .mem m, d => [0x18, 0x0C] ++ m.encode ++ d.encode

/-- MOVW (R91, R195). -/
def movwBytes : Src16 → Mem → List Byte
  | .imm w, .idx d => [0x18, 0x00] ++ d.encode ++ wordBytes w
  | .imm w, d => [0x18, 0x03] ++ wordBytes w ++ d.encode
  | .mem (.idx i), .idx d => [0x18, 0x02] ++ i.encode ++ d.encode
  | .mem (.idx i), d => [0x18, 0x05] ++ i.encode ++ d.encode
  | .mem m, .idx d => [0x18, 0x01] ++ d.encode ++ m.encode
  | .mem m, d => [0x18, 0x04] ++ m.encode ++ d.encode

/-- The core instruction whose words an alias's words are (R130); every other instruction is its own core. -/
def Instr.core : Instr → Instr
  | .abx => .leax (.acc .x .b)
  | .aby => .leay (.acc .y .b)
  | .clc => .andcc 0xFE
  | .cli => .andcc 0xEF
  | .clv => .andcc 0xFD
  | .des => .leas (.ofs5 .sp (-1))
  | .ins => .leas (.ofs5 .sp 1)
  | .sec => .orcc 0x01
  | .sei => .orcc 0x10
  | .sev => .orcc 0x02
  | .tap => .tfr .a .ccr
  | .tpa => .tfr .ccr .a
  | .tsx => .tfr .sp .x
  | .tsy => .tfr .sp .y
  | .txs => .tfr .x .sp
  | .tys => .tfr .y .sp
  | .xgdx => .exg .d .x
  | .xgdy => .exg .d .y
  | .bhs rr => .bcc rr
  | .blo rr => .bcs rr
  | .lsl m => .asl m
  | .lsla => .asla
  | .lslb => .aslb
  | .lsld => .asld
  | i => i

/-- The bytes of an instruction in memory order (R91, R120, R121). It means something for the well-formed ones. -/
def encode : Instr → List Byte
  | .suba op => op.encodeOp 0x80 | .cmpa op => op.encodeOp 0x81 | .sbca op => op.encodeOp 0x82
  | .anda op => op.encodeOp 0x84 | .bita op => op.encodeOp 0x85 | .ldaa op => op.encodeOp 0x86
  | .eora op => op.encodeOp 0x88 | .adca op => op.encodeOp 0x89 | .oraa op => op.encodeOp 0x8A
  | .adda op => op.encodeOp 0x8B
  | .subb op => op.encodeOp 0xC0 | .cmpb op => op.encodeOp 0xC1 | .sbcb op => op.encodeOp 0xC2
  | .andb op => op.encodeOp 0xC4 | .bitb op => op.encodeOp 0xC5 | .ldab op => op.encodeOp 0xC6
  | .eorb op => op.encodeOp 0xC8 | .adcb op => op.encodeOp 0xC9 | .orab op => op.encodeOp 0xCA
  | .addb op => op.encodeOp 0xCB
  | .subd op => op.encodeOp 0x83 | .addd op => op.encodeOp 0xC3 | .cpd op => op.encodeOp 0x8C
  | .cpy op => op.encodeOp 0x8D | .cpx op => op.encodeOp 0x8E | .cps op => op.encodeOp 0x8F
  | .ldd op => op.encodeOp 0xCC | .ldy op => op.encodeOp 0xCD | .ldx op => op.encodeOp 0xCE
  | .lds op => op.encodeOp 0xCF
  | .staa m => storeBytes 0x5A m | .stab m => storeBytes 0x5B m | .std m => storeBytes 0x5C m
  | .sty m => storeBytes 0x5D m | .stx m => storeBytes 0x5E m | .sts m => storeBytes 0x5F m
  | .neg m => rmwBytes 0 m | .com m => rmwBytes 1 m | .inc m => rmwBytes 2 m | .dec m => rmwBytes 3 m
  | .lsr m => rmwBytes 4 m | .rol m => rmwBytes 5 m | .ror m => rmwBytes 6 m | .asr m => rmwBytes 7 m
  | .asl m => rmwBytes 8 m | .lsl m => rmwBytes 8 m | .clr m => rmwBytes 9 m
  | .tst m => m.encodeOp 0 0xF7 0xE7
  | .nega => [0x40] | .negb => [0x50] | .coma => [0x41] | .comb => [0x51] | .inca => [0x42] | .incb => [0x52]
  | .deca => [0x43] | .decb => [0x53] | .lsra => [0x44] | .lsrb => [0x54] | .rola => [0x45] | .rolb => [0x55]
  | .rora => [0x46] | .rorb => [0x56] | .asra => [0x47] | .asrb => [0x57] | .asla => [0x48] | .aslb => [0x58]
  | .lsla => [0x48] | .lslb => [0x58] | .asld => [0x59] | .lsld => [0x59] | .lsrd => [0x49]
  | .clra => [0x87] | .clrb => [0xC7] | .tsta => [0x97] | .tstb => [0xD7]
  | .psha => [0x36] | .pshb => [0x37] | .pshc => [0x39] | .pshd => [0x3B] | .pshx => [0x34] | .pshy => [0x35]
  | .pula => [0x32] | .pulb => [0x33] | .pulc => [0x38] | .puld => [0x3A] | .pulx => [0x30] | .puly => [0x31]
  | .mul => [0x12] | .dex => [0x09] | .dey => [0x03] | .inx => [0x08] | .iny => [0x02] | .nop => [0xA7]
  | .aba => [0x18, 0x06] | .daa => [0x18, 0x07] | .tab => [0x18, 0x0E] | .tba => [0x18, 0x0F]
  | .idiv => [0x18, 0x10] | .fdiv => [0x18, 0x11] | .sba => [0x18, 0x16] | .cba => [0x18, 0x17]
  | .leay i => 0x19 :: i.encode | .leax i => 0x1A :: i.encode | .leas i => 0x1B :: i.encode
  | .abx => [0x1A, 0xE5] | .aby => [0x19, 0xED] | .des => [0x1B, 0x9F] | .ins => [0x1B, 0x81]
  | .movb src dst => movbBytes src dst | .movw src dst => movwBytes src dst
  | .tfr r1 r2 => xferBytes false r1 r2 | .exg r1 r2 => xferBytes true r1 r2
  | .tap => [0xB7, 0x02] | .tpa => [0xB7, 0x20] | .tsx => [0xB7, 0x75] | .tsy => [0xB7, 0x76]
  | .txs => [0xB7, 0x57] | .tys => [0xB7, 0x67] | .xgdx => [0xB7, 0xC5] | .xgdy => [0xB7, 0xC6]
  | .andcc ii => [0x10, ii] | .orcc ii => [0x14, ii]
  | .clc => [0x10, 0xFE] | .cli => [0x10, 0xEF] | .clv => [0x10, 0xFD]
  | .sec => [0x14, 0x01] | .sei => [0x14, 0x10] | .sev => [0x14, 0x02]
  | .bclr m mm => m.encodeOp 0x4D 0x1D 0x0D ++ [mm] | .bset m mm => m.encodeOp 0x4C 0x1C 0x0C ++ [mm]
  | .brclr m mm rr => m.encodeOp 0x4F 0x1F 0x0F ++ [mm, rr]
  | .brset m mm rr => m.encodeOp 0x4E 0x1E 0x0E ++ [mm, rr]
  | .bra rr => [0x20, rr] | .bhi rr => [0x22, rr] | .bls rr => [0x23, rr] | .bcc rr => [0x24, rr]
  | .bcs rr => [0x25, rr] | .bne rr => [0x26, rr] | .beq rr => [0x27, rr] | .bvc rr => [0x28, rr]
  | .bvs rr => [0x29, rr] | .bpl rr => [0x2A, rr] | .bmi rr => [0x2B, rr] | .bge rr => [0x2C, rr]
  | .blt rr => [0x2D, rr] | .bgt rr => [0x2E, rr] | .ble rr => [0x2F, rr]
  | .bhs rr => [0x24, rr] | .blo rr => [0x25, rr]
  | .jmp m => m.encodeOp 0 0x06 0x05 | .jsr m => m.encodeOp 0x17 0x16 0x15
  | .bsr rr => [0x07, rr] | .rts => [0x3D]
  | .dbeq c rel => loopBytes 0 c rel | .dbne c rel => loopBytes 1 c rel | .tbeq c rel => loopBytes 2 c rel
  | .tbne c rel => loopBytes 3 c rel | .ibeq c rel => loopBytes 4 c rel | .ibne c rel => loopBytes 5 c rel
  | .swi => [0x3F] | .rti => [0x0B] | .stop => [0x18, 0x3E]

end Sys2Proof
end

