-- ==== Sys2Proof/Config.lean ====
section
/-! DEFINITION. The parameters the spec leaves to the platform (R8), as plain data, and the free values. -/

namespace Sys2Proof

/-- The two mask classes of a hardware interrupt source (R446, R447). -/
inductive MaskClass where
  | i
  | x
  deriving DecidableEq, Repr

/-- One entry of `IrqSources` (D10): its identity in the pending set, the address of its vector, its mask class. -/
structure IrqSource where
  id : Nat
  vector : Word
  cls : MaskClass
  deriving DecidableEq, Repr

/-- `TFR_WIDEN` (R223, D12): how a TFR from an 8-bit to a 16-bit register extends. -/
inductive Widen where
  | sext
  | zext
  deriving DecidableEq, Repr

/-- What stands behind an admitted address (R63): plain memory, or a device whose reads are free values. -/
inductive RegionKind where
  | plain
  | device
  deriving DecidableEq, Repr

/-- One region of `MemMap` (R63): the addresses `base ≤ a < base + size` and the kinds of access admitted there. -/
structure Region where
  base : Nat
  size : Nat
  kind : RegionKind
  read : Bool
  write : Bool
  fetch : Bool
  deriving DecidableEq, Repr

/-- `ResetState` (R481): what a reset puts into the registers. -/
structure ResetRegs where
  a : Byte
  b : Byte
  x : Word
  y : Word
  sp : Word
  ccr : Byte
  deriving DecidableEq, Repr

/-- `EndOfRun` (R8, D25, U18): which of the three markers of D25 end a run (R387, R424; log 23). -/
structure EndOfRun where
  /-- A `BRA` to itself, `20 FE`, at PC. -/
  selfBranch : Bool
  /-- The stopped state with no source able to wake it. -/
  stopped : Bool
  /-- The values of PC that the harness names. -/
  atPc : List Word
  deriving DecidableEq, Repr

/-- The named parameters of R8. They are part of the state as data no step changes, so that a statement over all
states holds for every value of every parameter. -/
structure Config where
  /-- `MemMap` (R63, D4); the first region that holds an address decides, an address in no region admits nothing. -/
  memMap : List Region
  /-- `SWI_VECTOR` (R443, D5). -/
  swiVector : Word
  /-- `RESET_VECTOR` (R480, D6). -/
  resetVector : Word
  /-- `ResetState` (R481, D6). -/
  resetRegs : ResetRegs
  /-- `IrqSources` in order of priority (R450, D10). -/
  irqSources : List IrqSource
  /-- `TFR_WIDEN` (R223, D12). -/
  tfrWiden : Widen
  /-- `QUEUE_BYTES` (R78, D16). -/
  queueBytes : Nat
  /-- `EndOfRun` (D25). It ends a run and changes no step (`State.runEnded`). -/
  endOfRun : EndOfRun
  deriving DecidableEq, Repr

/-- Registers after reset. S = X = I = 1 is PRESUMED, the family's (R52, R481, G11; log 2).
The other values are a DESIGN CHOICE (the spec gives none; log 1). Both unsafe. -/
def ResetRegs.recommended : ResetRegs :=
  { a := 0, b := 0, x := 0, y := 0, sp := 0, ccr := 0xD0 }

/-- The parameters of `State.reset`: the spec's recommended instantiations (D5, D6) and, where it names none,
the family's values, PRESUMED (logs 2, 7, 8, 9, 10), or a DESIGN CHOICE (logs 5, 23). Unsafe for a platform with other
values. -/
def Config.recommended : Config :=
  { memMap := [{ base := 0, size := 65536, kind := .plain, read := true, write := true, fetch := true }]
    swiVector := 0xFFF6
    resetVector := 0xFFFE
    resetRegs := ResetRegs.recommended
    irqSources := [{ id := 0, vector := 0xFFF4, cls := .x }, { id := 1, vector := 0xFFF2, cls := .i }]
    tfrWiden := .sext
    queueBytes := 6
    endOfRun := { selfBranch := true, stopped := true, atPc := [] } }

/-- The free values `unspecified(N)` of R21: nothing is known of any of them (log 12).
The n-th value drawn is `Config.freeValue n`, its low bits where fewer than 16 are wanted. -/
opaque Config.freeValue : Nat → Word

end Sys2Proof
end

