-- ==== Sys2Proof/Machine/State.lean ====
section
/-! DEFINITION. The state of the machine as plain data (10_state.md), the reasons a step can stop, and the state after reset. -/

namespace Sys2Proof.Machine

/-- What the environment supplies at one instruction boundary (R51, R445, R480): a reset request, and the ids of the
interrupt sources that request service. -/
structure Input where
  reset : Bool
  pending : List Nat
  deriving DecidableEq, Repr

/-- The input of a boundary at which nothing happens. -/
def Input.none : Input := { reset := false, pending := [] }

/-- Everything the spec gives the machine (R30, R49 to R51) and its parameters (R8). D is A:B and no field (R32). -/
structure State where
  /-- Accumulator A (R31). -/
  a : Byte
  /-- Accumulator B (R31). -/
  b : Byte
  /-- Index register X (R33). -/
  x : Word
  /-- Index register Y (R33). -/
  y : Word
  /-- Stack pointer: the address of the last byte pushed (R34). -/
  sp : Word
  /-- Program counter. At a boundary, the address of the next instruction; while an instruction's meaning runs, `npc` (R35). -/
  pc : Word
  /-- Condition code register S X H I N Z V C, from bit 7 down to bit 0 (R37). -/
  ccr : Byte
  /-- Memory (R60) in the canonical form of `Memory.wf`. -/
  mem : List Host.Cell
  /-- The stopped state that STOP enters (R50). -/
  stopped : Bool
  /-- Addresses stored to while the instruction queue may already hold their bytes, since its last refill (R49, R78, D16). -/
  stale : List Word
  /-- What the environment will supply at the coming boundaries, the next one first; no entry means no request (R51, R445). -/
  inputs : List Input
  /-- The MODEL's own: how many free values have been drawn (log 12). -/
  draws : Nat
  /-- The parameters of R8; no step changes them. -/
  cfg : Config
  deriving DecidableEq, Repr

/-- Why the machine stops without an end state (R442). None of these is an exception of the hardware. -/
inductive Fault where
  /-- Raised by the step on an unlisted encoding; `bytes` are the opcode and post-bytes that decide it (R127, D7).
  Safe: the run has no end state, whatever the hardware does. -/
  | illegalOpcode (bytes : List Byte)
  /-- Raised by a data read at an address where `MemMap` admits none: the spec's stuck agent (R63, D4). Safe. -/
  | unadmittedRead (a : Word)
  /-- Raised by a data write at an address where `MemMap` admits none (R63, D4). Safe. -/
  | unadmittedWrite (a : Word)
  /-- Raised by the fetch of an instruction byte at an address where `MemMap` admits none (R63, D4). Safe. -/
  | unadmittedFetch (a : Word)
  deriving DecidableEq, Repr

/-- Why a form has no meaning: the spec's `refuse(reason)` (R21, R442). -/
inductive Refusal where
  /-- Raised by `exec` on an instruction that has no meaning yet. Safe. -/
  | notModelled (mnemonic : String)
  /-- Raised by an instruction whose auto-indexed base is also its operand register (R152, D15). Safe. -/
  | autoIndexOverlap
  /-- Raised by BCLR, BSET, BRCLR, BRSET, MOVB, MOVW with PC as index base (R147, D11). Safe. -/
  | pcRelativeTrailing
  /-- Raised by the step on the fetch of a byte that was stored inside the prefetch window (R78, D16). Safe. -/
  | storeIntoPrefetchWindow (a : Word)
  deriving DecidableEq, Repr

/-- The machine right after reset (R52, R480, R481): `ResetState` in the registers, running, nothing in flight.
Memory lists nothing, so the word at `RESET_VECTOR` that PC is loaded from is $0000 (log 3). -/
def State.reset : State :=
  { a := ResetRegs.recommended.a
    b := ResetRegs.recommended.b
    x := ResetRegs.recommended.x
    y := ResetRegs.recommended.y
    sp := ResetRegs.recommended.sp
    pc := 0x0000
    ccr := ResetRegs.recommended.ccr
    mem := []
    stopped := false
    stale := []
    inputs := []
    draws := 0
    cfg := Config.recommended }

end Sys2Proof.Machine
end

