-- ==== Sys2Proof/Machine/Flags.lean ====
section
/-! DEFINITION. The condition codes and every flag computation of the spec (R37 to R47, R242 to R245, R265, R341, R342). -/

namespace Sys2Proof.Machine

/-- The eight bits of CCR (R37). -/
inductive Flag where
  | c | v | z | n | i | h | x | s
  deriving DecidableEq, Repr

/-- The bit position of a flag in CCR (R37). -/
def Flag.pos : Flag → Nat
  | .c => 0
  | .v => 1
  | .z => 2
  | .n => 3
  | .i => 4
  | .h => 5
  | .x => 6
  | .s => 7

/-- A flag of a CCR value. -/
def ccrFlag (ccr : Byte) (f : Flag) : Bool := ccr.getLsbD f.pos

/-- A CCR value with one flag replaced. -/
def ccrPut (ccr : Byte) (f : Flag) (v : Bool) : Byte :=
  if v then ccr ||| (1#8 <<< f.pos) else ccr &&& ~~~(1#8 <<< f.pos)

/-- `LoadCCR` on values (R47): every bit from `v`, but X only stays set if it was. -/
def ccrLoad (old v : Byte) : Byte := (v &&& 0xBF) ||| ((old &&& v) &&& 0x40)

/-- A flag of the state. -/
def State.flag (s : State) (f : Flag) : Bool := ccrFlag s.ccr f

/-- The state with one flag replaced. -/
def State.putFlag (s : State) (f : Flag) (v : Bool) : State := { s with ccr := ccrPut s.ccr f v }

/-- `LoadCCR(v)` (R47). -/
def State.loadCcr (s : State) (v : Byte) : State := { s with ccr := ccrLoad s.ccr v }

/-- Writes N, Z and V. -/
def State.putNZV (s : State) (n z v : Bool) : State := ((s.putFlag .n n).putFlag .z z).putFlag .v v

/-- Writes N, Z, V and C. -/
def State.putNZVC (s : State) (n z v c : Bool) : State := (s.putNZV n z v).putFlag .c c

/-- The cell "– – – – ∆ ∆ 0 –" on a result: N its top bit, Z whether it is zero, V = 0 (R40, R41, R171, R178, R300). -/
def State.logicFlags {w : Nat} (s : State) (r : BitVec w) : State := s.putNZV r.msb (r == 0) false

/-- A result with its N, Z, V and C. -/
structure Alu (w : Nat) where
  r : BitVec w
  n : Bool
  z : Bool
  v : Bool
  c : Bool
  deriving DecidableEq, Repr

/-- Writes the four flags of a result. -/
def State.aluFlags {w : Nat} (s : State) (q : Alu w) : State := s.putNZVC q.n q.z q.v q.c

/-- `Add8` without H (R242). -/
def add8 (a m : Byte) (cin : Bool) : Alu 8 :=
  let sum := a.toNat + m.toNat + cin.toNat
  let r := BitVec.ofNat 8 sum
  { r := r, n := r.msb, z := r == 0, v := a.msb == m.msb && r.msb != a.msb, c := decide (256 ≤ sum) }

/-- The H of `Add8`: the carry from bit 3 into bit 4 (R43, R242). -/
def add8H (a m : Byte) (cin : Bool) : Bool :=
  decide (16 ≤ a.toNat % 16 + m.toNat % 16 + cin.toNat)

/-- `Sub8` (R243); C is the borrow. -/
def sub8 (a m : Byte) (bin : Bool) : Alu 8 :=
  let diff : Int := (a.toNat : Int) - (m.toNat : Int) - (bin.toNat : Int)
  let r := BitVec.ofInt 8 diff
  { r := r, n := r.msb, z := r == 0, v := a.msb != m.msb && r.msb != a.msb, c := decide (diff < 0) }

/-- `Add16` (R244). -/
def add16 (a m : Word) : Alu 16 :=
  let sum := a.toNat + m.toNat
  let r := BitVec.ofNat 16 sum
  { r := r, n := r.msb, z := r == 0, v := a.msb == m.msb && r.msb != a.msb, c := decide (65536 ≤ sum) }

/-- `Sub16` (R244). -/
def sub16 (a m : Word) : Alu 16 :=
  let diff : Int := (a.toNat : Int) - (m.toNat : Int)
  let r := BitVec.ofInt 16 diff
  { r := r, n := r.msb, z := r == 0, v := a.msb != m.msb && r.msb != a.msb, c := decide (diff < 0) }

/-- The flags of a shift or rotate with result `r` and carry out `c`: V = N xor C (R341, R342). -/
def shiftOut {w : Nat} (r : BitVec w) (c : Bool) : Alu w :=
  { r := r, n := r.msb, z := r == 0, v := r.msb != c, c := c }

/-- `Asl8` (R342). -/
def asl8 (v : Byte) : Alu 8 := shiftOut (v <<< 1) (v.getLsbD 7)

/-- `Asr8` (R342): bit 7 keeps its value. -/
def asr8 (v : Byte) : Alu 8 := shiftOut ((v >>> 1) ||| (v &&& 0x80)) (v.getLsbD 0)

/-- `Lsr8` (R342). -/
def lsr8 (v : Byte) : Alu 8 := shiftOut (v >>> 1) (v.getLsbD 0)

/-- `Rol8` (R342): the old carry enters bit 0. -/
def rol8 (v : Byte) (c : Bool) : Alu 8 := shiftOut ((v <<< 1) ||| (BitVec.ofBool c).setWidth 8) (v.getLsbD 7)

/-- `Ror8` (R342): the old carry enters bit 7. -/
def ror8 (v : Byte) (c : Bool) : Alu 8 := shiftOut ((v >>> 1) ||| ((BitVec.ofBool c).setWidth 8 <<< 7)) (v.getLsbD 0)

/-- `Asl16` (R342). -/
def asl16 (v : Word) : Alu 16 := shiftOut (v <<< 1) (v.getLsbD 15)

/-- `Lsr16` (R342). -/
def lsr16 (v : Word) : Alu 16 := shiftOut (v >>> 1) (v.getLsbD 0)

/-- The correction of DAA and its carry, from A, H and C (R265). -/
def daaAdjust (a : Byte) (h c : Bool) : Byte × Bool :=
  let low : Byte := if 9 < a.toNat % 16 || h then 0x06 else 0x00
  if 0x99 < a.toNat || c then (low ||| 0x60, true) else (low, c)

end Sys2Proof.Machine
end

