-- ==== Sys2Proof/Machine/Ops.lean ====
section
/-! DEFINITION. The named operations over memory, registers and the stack, and the one operation that takes an
exception with the return from one beside it (00_scope.md R18 to R20, 20_memory.md, 60_exceptions.md). -/

namespace Sys2Proof.Machine

/-! ## Memory as data -/

/-- What an unlisted byte of memory reads as: DESIGN CHOICE, unsafe (the spec gives RAM no value; log 4). -/
def Memory.blank : Byte := 0x00

/-- One byte of memory. -/
def Memory.read : List Host.Cell → Nat → Byte
  | [], _ => Memory.blank
  | (k, v) :: m, a => if k = a then v else Memory.read m a

/-- Writes one byte and keeps the canonical form: a byte equal to what an unlisted address reads as is not listed. -/
def Memory.write : List Host.Cell → Nat → Byte → List Host.Cell
  | [], a, v => if v = Memory.blank then [] else [(a, v)]
  | (k, w) :: m, a, v =>
    if k < a then (k, w) :: Memory.write m a v
    else if k = a then (if v = Memory.blank then m else (a, v) :: m)
    else if v = Memory.blank then (k, w) :: m
    else (a, v) :: (k, w) :: m

/-- The canonical form: addresses below 65536 (R60) and strictly rising, no entry equal to what an unlisted address reads as. -/
abbrev Memory.wf (m : List Host.Cell) : Prop :=
  m.Pairwise (fun c d => c.1 < d.1) ∧ ∀ c ∈ m, c.1 < 65536 ∧ c.2 ≠ Memory.blank

/-- The byte that memory holds at an address. -/
def State.byteAt (s : State) (a : Word) : Byte := Memory.read s.mem a.toNat

/-! ## Results -/

/-- Why an operation stopped. -/
inductive Stop where
  | fault (f : Fault)
  | refused (r : Refusal)
  deriving DecidableEq, Repr

/-- The result of an operation that may stop. -/
abbrev Res (α : Type) := Except Stop α

/-- The three outcomes of `exec` and `step`. -/
abbrev Out := Host.Outcome State Fault Refusal

/-- The outcome of a result. -/
def outcome : Res State → Out
  | .ok s => .next s
  | .error (.fault f) => .fault f
  | .error (.refused r) => .refused r

/-! ## Free values (R21; log 12) -/

/-- A free 16-bit value. -/
def State.drawWord (s : State) : Word × State := (Config.freeValue s.draws, { s with draws := s.draws + 1 })

/-- A free 8-bit value. -/
def State.drawByte (s : State) : Byte × State := (loByte (Config.freeValue s.draws), { s with draws := s.draws + 1 })

/-- A free bit. -/
def State.drawBit (s : State) : Bool × State := ((Config.freeValue s.draws).getLsbD 0, { s with draws := s.draws + 1 })

/-! ## Registers -/

/-- The 8-bit accumulators. -/
inductive Reg8 where
  | a | b
  deriving DecidableEq, Repr

/-- The 16-bit registers. -/
inductive Reg16 where
  | d | x | y | sp
  deriving DecidableEq, Repr

/-- Accumulator D, the concatenation A:B (R32). -/
def State.d (s : State) : Word := mkWord s.a s.b

/-- A write to D writes A and B (R32). -/
def State.setD (s : State) (v : Word) : State := { s with a := hiByte v, b := loByte v }

/-- Reads A or B. -/
def State.get8 (s : State) : Reg8 → Byte
  | .a => s.a
  | .b => s.b

/-- Writes A or B. -/
def State.set8 (s : State) (r : Reg8) (v : Byte) : State :=
  match r with
  | .a => { s with a := v }
  | .b => { s with b := v }

/-- Reads D, X, Y or SP. -/
def State.get16 (s : State) : Reg16 → Word
  | .d => s.d
  | .x => s.x
  | .y => s.y
  | .sp => s.sp

/-- Writes D, X, Y or SP. -/
def State.set16 (s : State) (r : Reg16) (v : Word) : State :=
  match r with
  | .d => s.setD v
  | .x => { s with x := v }
  | .y => { s with y := v }
  | .sp => { s with sp := v }

/-! ## The memory map and memory accesses (R19, R63) -/

/-- The kinds of access (R63). -/
inductive Access where
  | read | write | fetch
  deriving DecidableEq, Repr

/-- The region holds the address. -/
def regionHolds (r : Region) (a : Nat) : Bool := decide (r.base ≤ a) && decide (a < r.base + r.size)

/-- The region admits the kind of access. -/
def regionAllows (r : Region) : Access → Bool
  | .read => r.read
  | .write => r.write
  | .fetch => r.fetch

/-- The region of `MemMap` that decides about an address. -/
def State.region (s : State) (a : Word) : Option Region := s.cfg.memMap.find? fun r => regionHolds r a.toNat

/-- `MemMap` admits the access (R63). -/
def State.admits (s : State) (k : Access) (a : Word) : Bool :=
  match s.region a with
  | some r => regionAllows r k
  | none => false

/-- The address belongs to a device (R63). -/
def State.isDevice (s : State) (a : Word) : Bool :=
  match s.region a with
  | some r => r.kind == .device
  | none => false

/-- `MemRead(a, 1)`: plain memory gives the last value written, a device a free value, and an address that admits no
read leaves the agent stuck (R19, R63; log 6). -/
def State.read8 (s : State) (a : Word) : Res (Byte × State) :=
  if s.admits .read a then .ok (if s.isDevice a then s.drawByte else (s.byteAt a, s))
  else .error (.fault (.unadmittedRead a))

/-- `MemRead(a, 2)`: the byte at the lower address is the high-order one (R19, R64, R68). -/
def State.read16 (s : State) (a : Word) : Res (Word × State) := do
  let (hi, s) ← s.read8 a
  let (lo, s) ← s.read8 (a + 1)
  .ok (mkWord hi lo, s)

/-- The address is among the `QUEUE_BYTES` bytes after the running instruction, whose `npc` is `pc` (R78, D16). -/
def State.inWindow (s : State) (a : Word) : Bool := decide ((a - s.pc).toNat < s.cfg.queueBytes)

/-- Puts a byte into plain memory; a byte the queue may already hold is noted as stale (R78, D16). -/
def State.store (s : State) (a : Word) (v : Byte) : State :=
  { s with
    mem := Memory.write s.mem a.toNat v
    stale := if s.inWindow a then s.stale.insert a else s.stale }

/-- `MemWrite(a, 1, v)` (R19, R63). A device takes the byte and the machine's own state does not change (log 6). -/
def State.write8 (s : State) (a : Word) (v : Byte) : Res State :=
  if s.admits .write a then .ok (if s.isDevice a then s else s.store a v)
  else .error (.fault (.unadmittedWrite a))

/-- `MemWrite(a, 2, v)` (R19, R64, R68). -/
def State.write16 (s : State) (a : Word) (v : Word) : Res State := do
  let s ← s.write8 a (hiByte v)
  s.write8 (a + 1) (loByte v)

/-! ## The stack (R20, R34) -/

/-- `Push8(v)` (R20). -/
def State.push8 (s : State) (v : Byte) : Res State :=
  let s := { s with sp := s.sp - 1 }
  s.write8 s.sp v

/-- `Push16(v)` (R20). -/
def State.push16 (s : State) (v : Word) : Res State :=
  let s := { s with sp := s.sp - 2 }
  s.write16 s.sp v

/-- `Pull8()` (R20). -/
def State.pull8 (s : State) : Res (Byte × State) := do
  let (v, s) ← s.read8 s.sp
  .ok (v, { s with sp := s.sp + 1 })

/-- `Pull16()` (R20). -/
def State.pull16 (s : State) : Res (Word × State) := do
  let (v, s) ← s.read16 s.sp
  .ok (v, { s with sp := s.sp + 2 })

/-! ## Control transfer -/

/-- A taken branch, jump, call, return or exception entry: PC is the target and the queue is refilled, so no stored
byte is stale any more (R78(d), R370, R371). -/
def State.jump (s : State) (t : Word) : State := { s with pc := t, stale := [] }

/-- The address `off` bytes from `npc` (R96, R97, R153). -/
def State.relTarget {w : Nat} (s : State) (off : BitVec w) : Word := s.pc + off.signExtend 16

/-- Branches to `t` if `cond`, else goes on at `npc` (R371). -/
def State.branch (s : State) (cond : Bool) (t : Word) : State := if cond then s.jump t else s

/-! ## Exceptions -/

/-- Pushes the nine-byte frame: RTN (which is `pc`: `npc` for SWI and STOP, the next instruction for an interrupt,
R397), Y, X, B:A with B at the lower address, CCR (R66, R80, R421). -/
def State.pushFrame (s : State) : Res State := do
  let s ← s.push16 s.pc
  let s ← s.push16 s.y
  let s ← s.push16 s.x
  let s := { s with sp := s.sp - 2 }
  let s ← s.write8 s.sp s.b
  let s ← s.write8 (s.sp + 1) s.a
  s.push8 s.ccr

/-- TAKING AN EXCEPTION: SWI, a hardware interrupt and the wake-up from the stopped state (R421, R441, R448, R449).
The frame is pushed unless STOP has pushed it; I is set, X too for an X-class source; PC is the word at `vector`. -/
def State.takeException (s : State) (vector : Word) (frame setX : Bool) : Res State := do
  let s ← if frame then s.pushFrame else .ok s
  let s := s.putFlag .i true
  let s := if setX then s.putFlag .x true else s
  let (t, s) ← s.read16 vector
  .ok ({ s with stopped := false }.jump t)

/-- RETURN FROM AN EXCEPTION (R422): CCR through `LoadCCR`, B, A, X, then PC and Y in the source's order; SP moves past
the nine bytes. -/
def State.returnFromException (s : State) : Res State := do
  let base := s.sp
  let (v, s) ← s.read8 base
  let s := s.loadCcr v
  let (vb, s) ← s.read8 (base + 1)
  let (va, s) ← s.read8 (base + 2)
  let (vx, s) ← s.read16 (base + 3)
  let (t, s) ← s.read16 (base + 7)
  let (vy, s) ← s.read16 (base + 5)
  .ok ({ s with a := va, b := vb, x := vx, y := vy, sp := base + 9 }.jump t)

/-- Reset as an event (R480, R481): nothing is pushed, the registers take `ResetState`, the CPU runs, PC is the word at
`RESET_VECTOR`. Memory keeps its contents. -/
def State.resetEvent (s : State) : Res State := do
  let k := s.cfg.resetRegs
  let s := { s with a := k.a, b := k.b, x := k.x, y := k.y, sp := k.sp, ccr := k.ccr, stopped := false }
  let (t, s) ← s.read16 s.cfg.resetVector
  .ok (s.jump t)

end Sys2Proof.Machine
end

