-- ==== Sys2Proof/Machine/Operands.lean ====
section
/-! DEFINITION. Effective addresses and operand values for every address mode (40_operand_addressing.md).
While a meaning runs `pc` is `npc`, the value PC has as an index base (R147). -/

namespace Sys2Proof.Machine

/-- The value of a base register (R141, R147). -/
def State.base (s : State) : Base → Word
  | .x => s.x
  | .y => s.y
  | .sp => s.sp
  | .pc => s.pc

/-- The value of an auto-adjusted register. -/
def State.autoVal (s : State) : AutoReg → Word
  | .x => s.x
  | .y => s.y
  | .sp => s.sp

/-- Writes an auto-adjusted register. -/
def State.setAuto (s : State) (r : AutoReg) (v : Word) : State :=
  match r with
  | .x => { s with x := v }
  | .y => { s with y := v }
  | .sp => { s with sp := v }

/-- The adjustment of the field `nnnn`: +1 to +8 for codes 0000 to 0111, –8 to –1 for 1000 to 1111 (R103). -/
def autoAdjust (n : BitVec 4) : Word := if n.msb then n.signExtend 16 else n.setWidth 16 + 1

/-- The offset of an accumulator: A and B zero-extended, D as it is (R105, R149). -/
def State.accOffset (s : State) : AccOfs → Word
  | .a => s.a.setWidth 16
  | .b => s.b.setWidth 16
  | .d => s.d

/-- The effective address of an indexed form, with the register an auto form writes and the pointer an indirect form
reads (R141, R145 to R150). -/
def State.idxAddr (s : State) : Idx → Res (Word × State)
  | .ofs5 base n => .ok (s.base base + n.signExtend 16, s)
  | .auto r post n =>
    let new := s.autoVal r + autoAdjust n
    .ok (if post then s.autoVal r else new, s.setAuto r new)
  | .acc base off => .ok (s.base base + s.accOffset off, s)
  | .ofs9 base n => .ok (s.base base + n.signExtend 16, s)
  | .ofs16 base n => .ok (s.base base + n, s)
  | .ind16 base n => s.read16 (s.base base + n)
  | .indD base => s.read16 (s.base base + s.d)

/-- The effective address `EA(form)` (R141, R144). -/
def State.ea (s : State) : Mem → Res (Word × State)
  | .dir dd => .ok (dd.setWidth 16, s)
  | .ext a => .ok (a, s)
  | .idx i => s.idxAddr i

/-- `opnd8` (R142). -/
def State.opnd8 (s : State) : Src8 → Res (Byte × State)
  | .imm ii => .ok (ii, s)
  | .mem m => do
    let (a, s) ← s.ea m
    s.read8 a

/-- `opnd16` (R142). -/
def State.opnd16 (s : State) : Src16 → Res (Word × State)
  | .imm w => .ok (w, s)
  | .mem m => do
    let (a, s) ← s.ea m
    s.read16 a

/-- The register an auto form of the operand adjusts. -/
def idxAuto : Idx → Option AutoReg
  | .auto r _ _ => some r
  | .ofs5 _ _ | .acc _ _ | .ofs9 _ _ | .ofs16 _ _ | .ind16 _ _ | .indD _ => none

/-- The register an auto form of the operand adjusts. -/
def memAuto : Mem → Option AutoReg
  | .idx i => idxAuto i
  | .dir _ | .ext _ => none

/-- The register an auto form of the operand adjusts. -/
def src8Auto : Src8 → Option AutoReg
  | .mem m => memAuto m
  | .imm _ => none

/-- The register an auto form of the operand adjusts. -/
def src16Auto : Src16 → Option AutoReg
  | .mem m => memAuto m
  | .imm _ => none

/-- The auto-adjustable register a 16-bit register is; D is none. -/
def reg16Auto : Reg16 → Option AutoReg
  | .d => none
  | .x => some .x
  | .y => some .y
  | .sp => some .sp

/-- The overlap of R152: the auto-adjusted register is the instruction's own register operand. -/
def overlaps (auto own : Option AutoReg) : Bool := auto.isSome && auto == own

/-- The base register of an indexed form with an explicit base field. -/
def idxBase : Idx → Option Base
  | .ofs5 base _ | .acc base _ | .ofs9 base _ | .ofs16 base _ | .ind16 base _ | .indD base => some base
  | .auto _ _ _ => none

/-- PC is the operand's index base (R147). -/
def memOnPc : Mem → Bool
  | .idx i => idxBase i == some .pc
  | .dir _ | .ext _ => false

/-- PC is the operand's index base (R147). -/
def src8OnPc : Src8 → Bool
  | .mem m => memOnPc m
  | .imm _ => false

/-- PC is the operand's index base (R147). -/
def src16OnPc : Src16 → Bool
  | .mem m => memOnPc m
  | .imm _ => false

/-- Stops with a refusal if `bad`, else goes on. -/
def refuseIf (bad : Bool) (r : Refusal) (go : Res State) : Res State := if bad then .error (.refused r) else go

end Sys2Proof.Machine
end

