-- ==== Sys2Proof/Machine/Boundary.lean ====
section
/-! DEFINITION. What happens at an instruction boundary before an instruction's own effect: reset, hardware interrupts,
the stopped state, and the fetch (60_exceptions.md R445 to R450, 70_reset_and_hazards.md R480, 20_memory.md R63, R78). -/

namespace Sys2Proof.Machine

/-! ## Inputs, interrupts -/

/-- The input of this boundary; it is used up (R51, R445; log 11). -/
def State.popInput (s : State) : Input × State :=
  match s.inputs with
  | [] => (Input.none, s)
  | i :: rest => (i, { s with inputs := rest })

/-- A mask class is enabled: I-class when I = 0 (R446), X-class when X = 0 (R447). -/
def State.classEnabled (s : State) : MaskClass → Bool
  | .i => !s.flag .i
  | .x => !s.flag .x

/-- The source entered at this boundary: the first of `IrqSources` that is pending and enabled (R445, R450). -/
def State.chosenIrq (s : State) (pending : List Nat) : Option IrqSource :=
  s.cfg.irqSources.find? fun q => pending.contains q.id && s.classEnabled q.cls

/-- Enters a hardware interrupt; a stopped CPU has its frame already (R448, R449). -/
def State.enterIrq (s : State) (q : IrqSource) : Res State :=
  s.takeException q.vector (!s.stopped) (q.cls == .x)

/-! ## Fetch -/

/-- One instruction byte (R63, R79). A byte stored inside the prefetch window and not refilled since is a refusal (R78(c));
a device gives a free value (log 27). -/
def State.fetchByte (s : State) (k : Nat) : Res Byte :=
  let a := s.pc + BitVec.ofNat 16 k
  if s.admits .fetch a then
    if s.stale.contains a then .error (.refused (.storeIntoPrefetchWindow a))
    else .ok (if s.isDevice a then loByte (Config.freeValue (s.draws + k)) else s.byteAt a)
  else .error (.fault (.unadmittedFetch a))

/-- The bytes at `pc + k`, `pc + k + 1`, …, `fuel` of them at most, up to the first that cannot be fetched, and why not. -/
def State.fetchFrom (s : State) : Nat → Nat → List Byte × Option Stop
  | 0, _ => ([], none)
  | fuel + 1, k =>
    match s.fetchByte k with
    | .ok b => (b :: (s.fetchFrom fuel (k + 1)).1, (s.fetchFrom fuel (k + 1)).2)
    | .error e => ([], some e)

/-- The length of the longest instruction (R91). -/
def maxLength : Nat := 6

/-- One of the `n` bytes at `pc` belongs to a device. -/
def State.fetchesDevice (s : State) (n : Nat) : Bool :=
  (List.range n).any fun k => s.isDevice (s.pc + BitVec.ofNat 16 k)

/-- The state in which the meaning of an `n`-byte instruction runs: `pc` is `npc` (R35; log 18). -/
def State.advance (s : State) (n : Nat) : State :=
  { s with
    pc := s.pc + BitVec.ofNat 16 n
    draws := if s.fetchesDevice n then s.draws + n else s.draws }

/-! ## The boundary -/

/-- What a boundary leads to. -/
inductive Action where
  /-- The step is over: an entry, a reset, a stopped CPU, or a stop. -/
  | done (r : Res State)
  /-- An instruction runs in the state given. -/
  | run (i : Instr) (s : State)

/-- Fetches and decodes the instruction at `pc` (R90, R129). Only the instruction's own bytes count (R79): a byte that cannot
be fetched stops the step if the bytes before it do not make an instruction. An unlisted encoding is a fault (R127, D7). -/
def State.fetchInstr (s : State) : Action :=
  let w := s.fetchFrom maxLength 0
  match decode w.1 with
  | .ok (i, rest) => .run i (s.advance (w.1.length - rest.length))
  | .error (.illegal bytes) => .done (.error (.fault (.illegalOpcode bytes)))
  | .error .truncated =>
    match w.2 with
    | some e => .done (.error e)
    | none => .done (.error (.fault (.illegalOpcode w.1)))

/-- One boundary: reset overrides everything (R450, R480); then a pending enabled interrupt (R445, R448, R449); a CPU that
stays stopped changes nothing (R449); otherwise the next instruction (log 26). -/
def State.boundary (s : State) : Action :=
  let (inp, s) := s.popInput
  if inp.reset then .done s.resetEvent
  else
    match s.chosenIrq inp.pending with
    | some q => .done (s.enterIrq q)
    | none => if s.stopped then .done (.ok s) else s.fetchInstr

/-! ## The end of a run (R8, D25, U15, U18; log 23) -/

/-- Some source of `IrqSources` is able to wake a stopped CPU: its mask class is enabled, and CCR does not change while the
CPU is stopped (R446, R447, R449). -/
def State.canWake (s : State) : Bool := s.cfg.irqSources.any fun q => s.classEnabled q.cls

/-- The running CPU is at a `BRA` to itself (R387). -/
def State.atSelfBranch (s : State) : Bool :=
  !s.stopped &&
    match s.fetchInstr with
    | .run i _ => decide (i = .bra 0xFE)
    | .done _ => false

/-- The run has ended, by one of the markers that the parameter `EndOfRun` names (D25). A stopped CPU that nothing can wake
has an end only if the parameter says so (U15). -/
def State.runEnded (s : State) : Bool :=
  (s.cfg.endOfRun.selfBranch && s.atSelfBranch) || (s.cfg.endOfRun.stopped && s.stopped && !s.canWake) ||
    s.cfg.endOfRun.atPc.contains s.pc

/-! ## Placing an instruction -/

/-- Puts bytes into memory from an address upward, modulo 2^16. -/
def placeBytes : List Byte → Word → List Host.Cell → List Host.Cell
  | [], _, m => m
  | b :: bs, a, m => placeBytes bs (a + 1) (Memory.write m a.toNat b)

/-- The bytes at `pc`, and nothing in the way of their fetch: the CPU runs, the queue holds nothing stale, no reset and no
request at the coming boundary (log 3). -/
def State.placeAtPc (s : State) (bytes : List Byte) : State :=
  { s with
    mem := placeBytes bytes s.pc s.mem
    stopped := false
    stale := []
    inputs := match s.inputs with
      | [] => []
      | _ :: rest => Input.none :: rest }

end Sys2Proof.Machine
end

