-- ==== Sys2Proof/Machine/Arithmetic.lean ====
section
/-! DEFINITION. Arithmetic: add, subtract, compare, decimal adjust, increment, decrement, negate, clear, test, multiply,
divide (42_arithmetic.md), and the shared read-modify-write operation (R245). -/

namespace Sys2Proof.Machine

/-! ## Shared operations -/

/-- Writes H and the four flags of an 8-bit addition, the cell "– – ∆ – ∆ ∆ ∆ ∆" (R242). -/
def State.addFlags (s : State) (a m : Byte) (cin : Bool) : State :=
  (s.putFlag .h (add8H a m cin)).aluFlags (add8 a m cin)

/-- An 8-bit addition into a register of a value and a carry (R242). -/
def State.addInto (s : State) (r : Reg8) (m : Byte) (cin : Bool) : State :=
  (s.set8 r (add8 (s.get8 r) m cin).r).addFlags (s.get8 r) m cin

/-- An 8-bit subtraction into a register of a value and a borrow (R243). -/
def State.subInto (s : State) (r : Reg8) (m : Byte) (bin : Bool) : State :=
  let q := sub8 (s.get8 r) m bin
  (s.set8 r q.r).aluFlags q

/-- ADCx (`withC`) and ADDx (R247 to R250). -/
def addMem8 (r : Reg8) (withC : Bool) (op : Src8) (s : State) : Out := outcome do
  let (m, s) ← s.opnd8 op
  .ok (s.addInto r m (withC && s.flag .c))

/-- SBCx (`withC`) and SUBx (R253 to R256). -/
def subMem8 (r : Reg8) (withC : Bool) (op : Src8) (s : State) : Out := outcome do
  let (m, s) ← s.opnd8 op
  .ok (s.subInto r m (withC && s.flag .c))

/-- CMPx (R259, R260). -/
def cmpMem8 (r : Reg8) (op : Src8) (s : State) : Out := outcome do
  let (m, s) ← s.opnd8 op
  .ok (s.aluFlags (sub8 (s.get8 r) m false))

/-- CPD, CPS, CPX, CPY (R261 to R264, R152). -/
def cmpMem16 (r : Reg16) (op : Src16) (s : State) : Out :=
  outcome (refuseIf (overlaps (src16Auto op) (reg16Auto r)) .autoIndexOverlap do
    let (m, s) ← s.opnd16 op
    .ok (s.aluFlags (sub16 (s.get16 r) m)))

/-- A read-modify-write on one byte: the address once, one read, one write to the same address (R142, R245).
`f` gives the result and the state with the flags written. -/
def modify8 (f : State → Byte → Byte × State) (m : Mem) (s : State) : Res State := do
  let (ea, s) ← s.ea m
  let (v, s) ← s.read8 ea
  let (r, s) := f s v
  s.write8 ea r

/-- The same one-operand operation on an accumulator (R245). -/
def modifyAcc (f : State → Byte → Byte × State) (r : Reg8) (s : State) : State :=
  let (v, t) := f s (s.get8 r)
  t.set8 r v

/-- Decrement: C is not affected (R266). -/
def decOp (s : State) (v : Byte) : Byte × State :=
  let r := v - 1
  (r, s.putNZV r.msb (r == 0) (v == 0x80))

/-- Increment: C is not affected (R271). -/
def incOp (s : State) (v : Byte) : Byte × State :=
  let r := v + 1
  (r, s.putNZV r.msb (r == 0) (v == 0x7F))

/-- Negate (R276). -/
def negOp (s : State) (v : Byte) : Byte × State :=
  let r := 0 - v
  (r, s.putNZVC r.msb (r == 0) (r == 0x80) (r != 0))

/-- The flags of a clear, "– – – – 0 1 0 0" (R279). -/
def State.clearFlags (s : State) : State := s.putNZVC false true false false

/-- The flags of a test, "– – – – ∆ ∆ 0 0" (R282). -/
def State.testFlags (s : State) (v : Byte) : State := s.putNZVC v.msb (v == 0) false false

/-- A 16-bit count step that sets only Z (R269, R270, R274, R275). -/
def State.count16 (s : State) (r : Reg16) (v : Word) : State := (s.set16 r v).putFlag .z (v == 0)

/-! ## Addition (R246 to R251) -/

/-- ABA (R246). -/
def execAba (s : State) : Out := .next (s.addInto .a s.b false)

/-- ADCA (R247). -/
def execAdca (op : Src8) (s : State) : Out := addMem8 .a true op s

/-- ADCB (R248). -/
def execAdcb (op : Src8) (s : State) : Out := addMem8 .b true op s

/-- ADDA (R249). -/
def execAdda (op : Src8) (s : State) : Out := addMem8 .a false op s

/-- ADDB (R250). -/
def execAddb (op : Src8) (s : State) : Out := addMem8 .b false op s

/-- ADDD (R251). -/
def execAddd (op : Src16) (s : State) : Out := outcome do
  let (m, s) ← s.opnd16 op
  let q := add16 s.d m
  .ok ((s.setD q.r).aluFlags q)

/-! ## Subtraction (R252 to R257) -/

/-- SBA (R252). -/
def execSba (s : State) : Out := .next (s.subInto .a s.b false)

/-- SBCA (R253). -/
def execSbca (op : Src8) (s : State) : Out := subMem8 .a true op s

/-- SBCB (R254). -/
def execSbcb (op : Src8) (s : State) : Out := subMem8 .b true op s

/-- SUBA (R255). -/
def execSuba (op : Src8) (s : State) : Out := subMem8 .a false op s

/-- SUBB (R256). -/
def execSubb (op : Src8) (s : State) : Out := subMem8 .b false op s

/-- SUBD (R257). -/
def execSubd (op : Src16) (s : State) : Out := outcome do
  let (m, s) ← s.opnd16 op
  let q := sub16 s.d m
  .ok ((s.setD q.r).aluFlags q)

/-! ## Comparison (R258 to R264) -/

/-- CBA (R258). -/
def execCba (s : State) : Out := .next (s.aluFlags (sub8 s.a s.b false))

/-- CMPA (R259). -/
def execCmpa (op : Src8) (s : State) : Out := cmpMem8 .a op s

/-- CMPB (R260). -/
def execCmpb (op : Src8) (s : State) : Out := cmpMem8 .b op s

/-- CPD (R261). -/
def execCpd (op : Src16) (s : State) : Out := cmpMem16 .d op s

/-- CPS (R262). -/
def execCps (op : Src16) (s : State) : Out := cmpMem16 .sp op s

/-- CPX (R263). -/
def execCpx (op : Src16) (s : State) : Out := cmpMem16 .x op s

/-- CPY (R264). -/
def execCpy (op : Src16) (s : State) : Out := cmpMem16 .y op s

/-! ## Decimal adjust (R265) -/

/-- DAA: V is a free value (D9; log 14); H is not changed. -/
def execDaa (s : State) : Out :=
  let (cf, c) := daaAdjust s.a (s.flag .h) (s.flag .c)
  let r := s.a + cf
  let (v, s) := s.drawBit
  .next (({ s with a := r }).putNZVC r.msb (r == 0) v c)

/-! ## Decrement and increment (R266 to R275) -/

/-- DEC (R266). -/
def execDec (m : Mem) (s : State) : Out := outcome (modify8 decOp m s)

/-- DECA (R267). -/
def execDeca (s : State) : Out := .next (modifyAcc decOp .a s)

/-- DECB (R268). -/
def execDecb (s : State) : Out := .next (modifyAcc decOp .b s)

/-- DEX (R269). -/
def execDex (s : State) : Out := .next (s.count16 .x (s.x - 1))

/-- DEY (R270). -/
def execDey (s : State) : Out := .next (s.count16 .y (s.y - 1))

/-- INC (R271). -/
def execInc (m : Mem) (s : State) : Out := outcome (modify8 incOp m s)

/-- INCA (R272). -/
def execInca (s : State) : Out := .next (modifyAcc incOp .a s)

/-- INCB (R273). -/
def execIncb (s : State) : Out := .next (modifyAcc incOp .b s)

/-- INX (R274). -/
def execInx (s : State) : Out := .next (s.count16 .x (s.x + 1))

/-- INY (R275). -/
def execIny (s : State) : Out := .next (s.count16 .y (s.y + 1))

/-! ## Negate, clear, test (R276 to R284) -/

/-- NEG (R276). -/
def execNeg (m : Mem) (s : State) : Out := outcome (modify8 negOp m s)

/-- NEGA (R277). -/
def execNega (s : State) : Out := .next (modifyAcc negOp .a s)

/-- NEGB (R278). -/
def execNegb (s : State) : Out := .next (modifyAcc negOp .b s)

/-- CLR: the operand is not read (R279, D23). -/
def execClr (m : Mem) (s : State) : Out := outcome do
  let (ea, s) ← s.ea m
  let s ← s.write8 ea 0x00
  .ok s.clearFlags

/-- CLRA (R280). -/
def execClra (s : State) : Out := .next (s.set8 .a 0x00).clearFlags

/-- CLRB (R281). -/
def execClrb (s : State) : Out := .next (s.set8 .b 0x00).clearFlags

/-- TST (R282). -/
def execTst (m : Mem) (s : State) : Out := outcome do
  let (ea, s) ← s.ea m
  let (v, s) ← s.read8 ea
  .ok (s.testFlags v)

/-- TSTA (R283). -/
def execTsta (s : State) : Out := .next (s.testFlags s.a)

/-- TSTB (R284). -/
def execTstb (s : State) : Out := .next (s.testFlags s.b)

/-! ## Multiply and divide (R285 to R287) -/

/-- MUL: only C is affected, bit 7 of the low byte of the product (R285). -/
def execMul (s : State) : Out :=
  let r := BitVec.ofNat 16 (s.a.toNat * s.b.toNat)
  .next ((s.setD r).putFlag .c (r.getLsbD 7))

/-- IDIV: by zero the quotient is $FFFF and the remainder a free value (R286, D21; log 15). -/
def execIdiv (s : State) : Out :=
  if s.x = 0 then
    let (free, s) := s.drawWord
    .next (((({ s with x := 0xFFFF }).setD free).putFlag .z false).putFlag .v false |>.putFlag .c true)
  else
    let q := BitVec.ofNat 16 (s.d.toNat / s.x.toNat)
    let r := BitVec.ofNat 16 (s.d.toNat % s.x.toNat)
    .next (((({ s with x := q }).setD r).putFlag .z (q == 0)).putFlag .v false |>.putFlag .c false)

/-- FDIV: where the denominator is not above the numerator the quotient is $FFFF and the remainder a free value
(R287, D21; log 15). -/
def execFdiv (s : State) : Out :=
  if s.x.toNat ≤ s.d.toNat then
    let c := s.x == 0
    let (free, s) := s.drawWord
    .next (((({ s with x := 0xFFFF }).setD free).putFlag .z false).putFlag .v true |>.putFlag .c c)
  else
    let q := BitVec.ofNat 16 (s.d.toNat * 65536 / s.x.toNat)
    let r := BitVec.ofNat 16 (s.d.toNat * 65536 % s.x.toNat)
    .next (((({ s with x := q }).setD r).putFlag .z (q == 0)).putFlag .v false |>.putFlag .c false)

end Sys2Proof.Machine
end

