-- ==== Sys2Proof/Machine/Control.lean ====
section
/-! DEFINITION. Branches, jumps, subroutine linkage, loop primitives, NOP (45_branch_control.md) and the system
instructions (46_system.md). `pc` is `npc` while a meaning runs, so not branching leaves it alone. -/

namespace Sys2Proof.Machine

/-! ## Shared operations -/

/-- An 8-bit relative branch (R371). -/
def branchIf (cond : Bool) (rr : Byte) (s : State) : Out := .next (s.branch cond (s.relTarget rr))

/-- BRCLR and BRSET: branches if `test` holds of the operand byte; PC as base is refused (R390, R147). -/
def branchOnBits (test : Byte → Bool) (m : Mem) (rr : Byte) (s : State) : Out :=
  outcome (refuseIf (memOnPc m) .pcRelativeTrailing do
    let (ea, s) ← s.ea m
    let (v, s) ← s.read8 ea
    .ok (s.branch (test v) (s.relTarget rr)))

/-- Calls the subroutine at `t`: the return address `npc` is pushed (R394, R395, R397). -/
def State.call (s : State) (t : Word) : Res State := do
  let s ← s.push16 s.pc
  .ok (s.jump t)

/-- The counter is zero (R400). -/
def State.cntrZero (s : State) : Cntr → Bool
  | .a => s.a == 0
  | .b => s.b == 0
  | .d => s.d == 0
  | .x => s.x == 0
  | .y => s.y == 0
  | .sp => s.sp == 0

/-- Adds `k` to the counter, modulo 2^8 or 2^16 (R400). -/
def State.cntrAdd (s : State) (c : Cntr) (k : Int) : State :=
  match c with
  | .a => { s with a := s.a + BitVec.ofInt 8 k }
  | .b => { s with b := s.b + BitVec.ofInt 8 k }
  | .d => s.setD (s.d + BitVec.ofInt 16 k)
  | .x => { s with x := s.x + BitVec.ofInt 16 k }
  | .y => { s with y := s.y + BitVec.ofInt 16 k }
  | .sp => { s with sp := s.sp + BitVec.ofInt 16 k }

/-- A loop primitive: the counter steps by `k`, then the branch is taken if being zero is `onZero` (R400). -/
def loopOp (k : Int) (onZero : Bool) (c : Cntr) (rel : BitVec 9) (s : State) : Out :=
  let s := s.cntrAdd c k
  .next (s.branch (s.cntrZero c == onZero) (s.relTarget rel))

/-! ## Short branches (R373 to R389) -/

/-- BCC (R373). -/
def execBcc (rr : Byte) (s : State) : Out := branchIf (!s.flag .c) rr s

/-- BCS (R374). -/
def execBcs (rr : Byte) (s : State) : Out := branchIf (s.flag .c) rr s

/-- BEQ (R375). -/
def execBeq (rr : Byte) (s : State) : Out := branchIf (s.flag .z) rr s

/-- BGE (R376). -/
def execBge (rr : Byte) (s : State) : Out := branchIf (s.flag .n == s.flag .v) rr s

/-- BGT (R377). -/
def execBgt (rr : Byte) (s : State) : Out := branchIf (!s.flag .z && s.flag .n == s.flag .v) rr s

/-- BHI (R378). -/
def execBhi (rr : Byte) (s : State) : Out := branchIf (!s.flag .c && !s.flag .z) rr s

/-- BHS, the second name of BCC (R379). -/
def execBhs (rr : Byte) (s : State) : Out := branchIf (!s.flag .c) rr s

/-- BLE (R380). -/
def execBle (rr : Byte) (s : State) : Out := branchIf (s.flag .z || s.flag .n != s.flag .v) rr s

/-- BLO, the second name of BCS (R381). -/
def execBlo (rr : Byte) (s : State) : Out := branchIf (s.flag .c) rr s

/-- BLS (R382). -/
def execBls (rr : Byte) (s : State) : Out := branchIf (s.flag .c || s.flag .z) rr s

/-- BLT (R383). -/
def execBlt (rr : Byte) (s : State) : Out := branchIf (s.flag .n != s.flag .v) rr s

/-- BMI (R384). -/
def execBmi (rr : Byte) (s : State) : Out := branchIf (s.flag .n) rr s

/-- BNE (R385). -/
def execBne (rr : Byte) (s : State) : Out := branchIf (!s.flag .z) rr s

/-- BPL (R386). -/
def execBpl (rr : Byte) (s : State) : Out := branchIf (!s.flag .n) rr s

/-- BRA (R387). -/
def execBra (rr : Byte) (s : State) : Out := branchIf true rr s

/-- BVC (R388). -/
def execBvc (rr : Byte) (s : State) : Out := branchIf (!s.flag .v) rr s

/-- BVS (R389). -/
def execBvs (rr : Byte) (s : State) : Out := branchIf (s.flag .v) rr s

/-! ## Branches on bits of a byte (R391, R392) -/

/-- BRCLR: all selected bits clear (R391). -/
def execBrclr (m : Mem) (mm rr : Byte) (s : State) : Out := branchOnBits (fun v => v &&& mm == 0) m rr s

/-- BRSET: all selected bits set (R392, C4). -/
def execBrset (m : Mem) (mm rr : Byte) (s : State) : Out := branchOnBits (fun v => ~~~v &&& mm == 0) m rr s

/-! ## Jumps and subroutines (R393 to R396) -/

/-- JMP: the effective address is the target (R393). -/
def execJmp (m : Mem) (s : State) : Out := outcome do
  let (t, s) ← s.ea m
  .ok (s.jump t)

/-- BSR (R394). -/
def execBsr (rr : Byte) (s : State) : Out := outcome (s.call (s.relTarget rr))

/-- JSR: the target is computed before the push; an auto form on SP is refused (R395, R151, R152). -/
def execJsr (m : Mem) (s : State) : Out :=
  outcome (refuseIf (overlaps (memAuto m) (some .sp)) .autoIndexOverlap do
    let (t, s) ← s.ea m
    s.call t)

/-- RTS (R396). -/
def execRts (s : State) : Out := outcome do
  let (t, s) ← s.pull16
  .ok (s.jump t)

/-! ## Loop primitives (R401 to R406) -/

/-- DBEQ (R401). -/
def execDbeq (c : Cntr) (rel : BitVec 9) (s : State) : Out := loopOp (-1) true c rel s

/-- DBNE (R402). -/
def execDbne (c : Cntr) (rel : BitVec 9) (s : State) : Out := loopOp (-1) false c rel s

/-- IBEQ (R403). -/
def execIbeq (c : Cntr) (rel : BitVec 9) (s : State) : Out := loopOp 1 true c rel s

/-- IBNE (R404). -/
def execIbne (c : Cntr) (rel : BitVec 9) (s : State) : Out := loopOp 1 false c rel s

/-- TBEQ: the counter is not changed (R405). -/
def execTbeq (c : Cntr) (rel : BitVec 9) (s : State) : Out := .next (s.branch (s.cntrZero c) (s.relTarget rel))

/-- TBNE: the counter is not changed (R406). -/
def execTbne (c : Cntr) (rel : BitVec 9) (s : State) : Out := .next (s.branch (!s.cntrZero c) (s.relTarget rel))

/-! ## NOP and the system instructions (R410, R421, R422, R424) -/

/-- NOP: nothing but the advance of PC to `npc` (R410). -/
def execNop (s : State) : Out := .next s

/-- SWI: takes the exception, whatever I and X hold (R421, R441). -/
def execSwi (s : State) : Out := outcome (s.takeException s.cfg.swiVector true false)

/-- RTI (R422). -/
def execRti (s : State) : Out := outcome s.returnFromException

/-- STOP: with S = 1 a NOP, with S = 0 the frame is pushed and the CPU stops (R424). -/
def execStop (s : State) : Out :=
  if s.flag .s then .next s
  else outcome do
    let s ← s.pushFrame
    .ok { s with stopped := true }

end Sys2Proof.Machine
end

