-- ==== Sys2Proof/Machine/LoadStore.lean ====
section
/-! DEFINITION. Loads, stores, load effective address, moves, stack, transfers and exchanges (41_load_store_transfer.md).
Every meaning runs with `pc` at `npc` (R35, R170). -/

namespace Sys2Proof.Machine

/-! ## Shared operations -/

/-- A load of A or B (R171). -/
def load8 (r : Reg8) (op : Src8) (s : State) : Out := outcome do
  let (v, s) ← s.opnd8 op
  .ok ((s.set8 r v).logicFlags v)

/-- A load of D, X, Y or SP (R171, R152). -/
def load16 (r : Reg16) (op : Src16) (s : State) : Out :=
  outcome (refuseIf (overlaps (src16Auto op) (reg16Auto r)) .autoIndexOverlap do
    let (v, s) ← s.opnd16 op
    .ok ((s.set16 r v).logicFlags v))

/-- A store of A or B (R178). -/
def store8 (r : Reg8) (m : Mem) (s : State) : Out := outcome do
  let (ea, s) ← s.ea m
  let s ← s.write8 ea (s.get8 r)
  .ok (s.logicFlags (s.get8 r))

/-- A store of D, X, Y or SP (R178, R152). -/
def store16 (r : Reg16) (m : Mem) (s : State) : Out :=
  outcome (refuseIf (overlaps (memAuto m) (reg16Auto r)) .autoIndexOverlap do
    let (ea, s) ← s.ea m
    let s ← s.write16 ea (s.get16 r)
    .ok (s.logicFlags (s.get16 r)))

/-- LEAS, LEAX, LEAY: the effective address is the result, no flag changes (R185, R152). -/
def lea (r : Reg16) (i : Idx) (s : State) : Out :=
  outcome (refuseIf (overlaps (idxAuto i) (reg16Auto r)) .autoIndexOverlap do
    let (ea, s) ← s.idxAddr i
    .ok (s.set16 r ea))

/-- A push of 8 bits (R209). -/
def pushByte (v : Byte) (s : State) : Out := outcome (s.push8 v)

/-- A push of 16 bits (R209). -/
def pushWord (v : Word) (s : State) : Out := outcome (s.push16 v)

/-- A pull into A or B (R209). -/
def pullInto8 (r : Reg8) (s : State) : Out := outcome do
  let (v, s) ← s.pull8
  .ok (s.set8 r v)

/-- A pull into D, X or Y (R209). -/
def pullInto16 (r : Reg16) (s : State) : Out := outcome do
  let (v, s) ← s.pull16
  .ok (s.set16 r v)

/-! ## Loads (R172 to R177) -/

/-- LDAA (R172). -/
def execLdaa (op : Src8) (s : State) : Out := load8 .a op s

/-- LDAB (R173). -/
def execLdab (op : Src8) (s : State) : Out := load8 .b op s

/-- LDD (R174). -/
def execLdd (op : Src16) (s : State) : Out := load16 .d op s

/-- LDS (R175). -/
def execLds (op : Src16) (s : State) : Out := load16 .sp op s

/-- LDX (R176). -/
def execLdx (op : Src16) (s : State) : Out := load16 .x op s

/-- LDY (R177). -/
def execLdy (op : Src16) (s : State) : Out := load16 .y op s

/-! ## Stores (R179 to R184) -/

/-- STAA (R179). -/
def execStaa (m : Mem) (s : State) : Out := store8 .a m s

/-- STAB (R180). -/
def execStab (m : Mem) (s : State) : Out := store8 .b m s

/-- STD (R181). -/
def execStd (m : Mem) (s : State) : Out := store16 .d m s

/-- STS (R182). -/
def execSts (m : Mem) (s : State) : Out := store16 .sp m s

/-- STX (R183). -/
def execStx (m : Mem) (s : State) : Out := store16 .x m s

/-- STY (R184). -/
def execSty (m : Mem) (s : State) : Out := store16 .y m s

/-! ## Load effective address and its aliases (R186 to R192) -/

/-- LEAS (R186). -/
def execLeas (i : Idx) (s : State) : Out := lea .sp i s

/-- LEAX (R187). -/
def execLeax (i : Idx) (s : State) : Out := lea .x i s

/-- LEAY (R188). -/
def execLeay (i : Idx) (s : State) : Out := lea .y i s

/-- ABX, LEAX B,X (R189). -/
def execAbx (s : State) : Out := lea .x (.acc .x .b) s

/-- ABY, LEAY B,Y (R190, C1). -/
def execAby (s : State) : Out := lea .y (.acc .y .b) s

/-- DES, LEAS –1,SP (R191). -/
def execDes (s : State) : Out := lea .sp (.ofs5 .sp (-1)) s

/-- INS, LEAS 1,SP (R192). -/
def execIns (s : State) : Out := lea .sp (.ofs5 .sp 1) s

/-! ## Moves (R193 to R195) -/

/-- MOVB: source address, source read, destination address, destination write (R154, R193, R194, D24).
PC as a base is refused (R147), so is one register auto-indexed twice (R152). -/
def execMovb (src : Src8) (dst : Mem) (s : State) : Out :=
  outcome (refuseIf (src8OnPc src || memOnPc dst) .pcRelativeTrailing
    (refuseIf (overlaps (src8Auto src) (memAuto dst)) .autoIndexOverlap do
      let (v, s) ← s.opnd8 src
      let (ea, s) ← s.ea dst
      s.write8 ea v))

/-- MOVW (R154, R193, R195, D24, R147, R152). -/
def execMovw (src : Src16) (dst : Mem) (s : State) : Out :=
  outcome (refuseIf (src16OnPc src || memOnPc dst) .pcRelativeTrailing
    (refuseIf (overlaps (src16Auto src) (memAuto dst)) .autoIndexOverlap do
      let (v, s) ← s.opnd16 src
      let (ea, s) ← s.ea dst
      s.write16 ea v))

/-! ## Pushes and pulls (R210 to R221) -/

/-- PSHA (R210). -/
def execPsha (s : State) : Out := pushByte s.a s

/-- PSHB (R211). -/
def execPshb (s : State) : Out := pushByte s.b s

/-- PSHC (R212). -/
def execPshc (s : State) : Out := pushByte s.ccr s

/-- PSHD (R213). -/
def execPshd (s : State) : Out := pushWord s.d s

/-- PSHX (R214). -/
def execPshx (s : State) : Out := pushWord s.x s

/-- PSHY (R215). -/
def execPshy (s : State) : Out := pushWord s.y s

/-- PULA (R216). -/
def execPula (s : State) : Out := pullInto8 .a s

/-- PULB (R217). -/
def execPulb (s : State) : Out := pullInto8 .b s

/-- PULC, through `LoadCCR` (R218). -/
def execPulc (s : State) : Out := outcome do
  let (v, s) ← s.pull8
  .ok (s.loadCcr v)

/-- PULD (R219). -/
def execPuld (s : State) : Out := pullInto16 .d s

/-- PULX (R220). -/
def execPulx (s : State) : Out := pullInto16 .x s

/-- PULY (R221). -/
def execPuly (s : State) : Out := pullInto16 .y s

/-! ## Transfers and exchanges (R222 to R234) -/

/-- The register is 16 bits wide (R222). -/
def regWide : Reg → Bool
  | .d | .x | .y | .sp => true
  | .a | .b | .ccr => false

/-- The value of an 8-bit register, the low byte of a 16-bit one (R223(b)). -/
def State.regLow (s : State) : Reg → Byte
  | .a => s.a
  | .b => s.b
  | .ccr => s.ccr
  | .d => s.b
  | .x => loByte s.x
  | .y => loByte s.y
  | .sp => loByte s.sp

/-- The value of a 16-bit register, an 8-bit one zero-extended (R224(b)). -/
def State.regWord (s : State) : Reg → Word
  | .d => s.d
  | .x => s.x
  | .y => s.y
  | .sp => s.sp
  | .a => s.a.setWidth 16
  | .b => s.b.setWidth 16
  | .ccr => s.ccr.setWidth 16

/-- Writes a register: an 8-bit one with the low byte of the value, CCR through `LoadCCR` (R222, R47). -/
def State.setReg (s : State) (r : Reg) (v : Word) : State :=
  match r with
  | .a => { s with a := loByte v }
  | .b => { s with b := loByte v }
  | .ccr => s.loadCcr (loByte v)
  | .d => s.setD v
  | .x => { s with x := v }
  | .y => { s with y := v }
  | .sp => { s with sp := v }

/-- `ext_16` of R223(c), by the parameter `TFR_WIDEN` (D12; log 8). -/
def State.widen (s : State) (v : Byte) : Word :=
  match s.cfg.tfrWiden with
  | .sext => v.signExtend 16
  | .zext => v.setWidth 16

/-- TFR on states (R223): same size as it is, 16 to 8 bits the low byte, 8 to 16 bits `ext_16`. -/
def State.transfer (s : State) (r1 r2 : Reg) : State :=
  if !regWide r1 && regWide r2 then s.setReg r2 (s.widen (s.regLow r1)) else s.setReg r2 (s.regWord r1)

/-- The two registers of a mixed-size exchange share an accumulator: A,D; D,A; B,D; D,B (R224). -/
def exchangeOverlap : Reg → Reg → Bool
  | .a, .d | .d, .a | .b, .d | .d, .b => true
  | _, _ => false

/-- EXG on states (R224): the three cases of the source; what they do not mention is a free value (D13; log 13). -/
def State.exchange (s : State) (r1 r2 : Reg) : State :=
  if exchangeOverlap r1 r2 then
    let (v, s) := s.drawWord
    s.setD v
  else if !regWide r1 && regWide r2 then
    let v1 := s.regWord r1
    let (free, s) := s.drawByte
    (s.setReg r2 v1).setReg r1 (mkWord 0 free)
  else if regWide r1 && !regWide r2 then
    let v1 := s.regWord r1
    let v2 := s.regLow r2
    let (free, s) := s.drawByte
    (s.setReg r1 (mkWord free v2)).setReg r2 v1
  else
    let v1 := s.regWord r1
    let v2 := s.regWord r2
    (s.setReg r1 v2).setReg r2 v1

/-- TFR (R223). -/
def execTfr (r1 r2 : Reg) (s : State) : Out := .next (s.transfer r1 r2)

/-- EXG (R224). -/
def execExg (r1 r2 : Reg) (s : State) : Out := .next (s.exchange r1 r2)

/-- TAP, TFR A,CCR (R225). -/
def execTap (s : State) : Out := .next (s.transfer .a .ccr)

/-- TPA, TFR CCR,A (R226). -/
def execTpa (s : State) : Out := .next (s.transfer .ccr .a)

/-- TSX, TFR SP,X (R227). -/
def execTsx (s : State) : Out := .next (s.transfer .sp .x)

/-- TSY, TFR SP,Y (R228). -/
def execTsy (s : State) : Out := .next (s.transfer .sp .y)

/-- TXS, TFR X,SP (R229). -/
def execTxs (s : State) : Out := .next (s.transfer .x .sp)

/-- TYS, TFR Y,SP (R230). -/
def execTys (s : State) : Out := .next (s.transfer .y .sp)

/-- XGDX, EXG D,X (R231). -/
def execXgdx (s : State) : Out := .next (s.exchange .d .x)

/-- XGDY, EXG D,Y (R232). -/
def execXgdy (s : State) : Out := .next (s.exchange .d .y)

/-- TAB, with flags (R233). -/
def execTab (s : State) : Out := .next ((s.set8 .b s.a).logicFlags s.a)

/-- TBA, with flags (R234). -/
def execTba (s : State) : Out := .next ((s.set8 .a s.b).logicFlags s.b)

end Sys2Proof.Machine
end

