-- ==== Sys2Proof/Machine/Logic.lean ====
section
/-! DEFINITION. Logic, complement, condition-code and bit-manipulation instructions (43_logic_bit.md). -/

namespace Sys2Proof.Machine

/-! ## Shared operations -/

/-- A two-operand logic instruction that writes its accumulator (R300). -/
def logicMem8 (f : Byte → Byte → Byte) (r : Reg8) (op : Src8) (s : State) : Out := outcome do
  let (m, s) ← s.opnd8 op
  let v := f (s.get8 r) m
  .ok ((s.set8 r v).logicFlags v)

/-- BITA and BITB: only the flags (R303, R304). -/
def bitTest8 (r : Reg8) (op : Src8) (s : State) : Out := outcome do
  let (m, s) ← s.opnd8 op
  .ok (s.logicFlags (s.get8 r &&& m))

/-- One's complement, "– – – – ∆ ∆ 0 1" (R309). -/
def comOp (s : State) (v : Byte) : Byte × State :=
  let r := ~~~v
  (r, s.putNZVC r.msb (r == 0) false true)

/-- A bit-manipulation result with the flags of the whole byte written (R320). -/
def bitOp (f : Byte → Byte) (s : State) (v : Byte) : Byte × State :=
  let r := f v
  (r, s.logicFlags r)

/-- BCLR and BSET on memory; PC as base is refused (R320, R147). -/
def modifyBits (f : Byte → Byte) (m : Mem) (s : State) : Out :=
  outcome (refuseIf (memOnPc m) .pcRelativeTrailing (modify8 (bitOp f) m s))

/-- ANDCC on values (R312). -/
def State.andCcr (s : State) (ii : Byte) : State := { s with ccr := s.ccr &&& ii }

/-- ORCC on values: bit 6 of the immediate is ignored (R313, D27). -/
def State.orCcr (s : State) (ii : Byte) : State := { s with ccr := s.ccr ||| (ii &&& 0xBF) }

/-! ## AND, bit test, exclusive OR, OR (R301 to R308) -/

/-- ANDA (R301). -/
def execAnda (op : Src8) (s : State) : Out := logicMem8 (· &&& ·) .a op s

/-- ANDB (R302). -/
def execAndb (op : Src8) (s : State) : Out := logicMem8 (· &&& ·) .b op s

/-- BITA (R303). -/
def execBita (op : Src8) (s : State) : Out := bitTest8 .a op s

/-- BITB (R304). -/
def execBitb (op : Src8) (s : State) : Out := bitTest8 .b op s

/-- EORA (R305). -/
def execEora (op : Src8) (s : State) : Out := logicMem8 (· ^^^ ·) .a op s

/-- EORB (R306). -/
def execEorb (op : Src8) (s : State) : Out := logicMem8 (· ^^^ ·) .b op s

/-- ORAA (R307). -/
def execOraa (op : Src8) (s : State) : Out := logicMem8 (· ||| ·) .a op s

/-- ORAB (R308). -/
def execOrab (op : Src8) (s : State) : Out := logicMem8 (· ||| ·) .b op s

/-! ## One's complement (R309 to R311) -/

/-- COM (R309). -/
def execCom (m : Mem) (s : State) : Out := outcome (modify8 comOp m s)

/-- COMA (R310). -/
def execComa (s : State) : Out := .next (modifyAcc comOp .a s)

/-- COMB (R311). -/
def execComb (s : State) : Out := .next (modifyAcc comOp .b s)

/-! ## Condition codes (R312 to R319) -/

/-- ANDCC (R312). -/
def execAndcc (ii : Byte) (s : State) : Out := .next (s.andCcr ii)

/-- ORCC (R313). -/
def execOrcc (ii : Byte) (s : State) : Out := .next (s.orCcr ii)

/-- CLC, ANDCC #$FE (R314). -/
def execClc (s : State) : Out := .next (s.andCcr 0xFE)

/-- CLI, ANDCC #$EF (R315). -/
def execCli (s : State) : Out := .next (s.andCcr 0xEF)

/-- CLV, ANDCC #$FD (R316). -/
def execClv (s : State) : Out := .next (s.andCcr 0xFD)

/-- SEC, ORCC #$01 (R317). -/
def execSec (s : State) : Out := .next (s.orCcr 0x01)

/-- SEI, ORCC #$10 (R318). -/
def execSei (s : State) : Out := .next (s.orCcr 0x10)

/-- SEV, ORCC #$02 (R319). -/
def execSev (s : State) : Out := .next (s.orCcr 0x02)

/-! ## Bit clear and bit set (R321, R322) -/

/-- BCLR (R321, C5). -/
def execBclr (m : Mem) (mm : Byte) (s : State) : Out := modifyBits (fun v => v &&& ~~~mm) m s

/-- BSET (R322). -/
def execBset (m : Mem) (mm : Byte) (s : State) : Out := modifyBits (fun v => v ||| mm) m s

end Sys2Proof.Machine
end

