-- ==== Sys2Proof/Machine/Shift.lean ====
section
/-! DEFINITION. Shift and rotate instructions (44_shift_rotate.md). -/

namespace Sys2Proof.Machine

/-! ## Shared operations -/

/-- Arithmetic shift left of a byte with its flags (R342, R343). -/
def aslOp (s : State) (v : Byte) : Byte × State := ((asl8 v).r, s.aluFlags (asl8 v))

/-- Arithmetic shift right of a byte with its flags (R342, R347). -/
def asrOp (s : State) (v : Byte) : Byte × State := ((asr8 v).r, s.aluFlags (asr8 v))

/-- Logical shift right of a byte with its flags (R342, R354). -/
def lsrOp (s : State) (v : Byte) : Byte × State := ((lsr8 v).r, s.aluFlags (lsr8 v))

/-- Rotate left through carry of a byte with its flags (R342, R358). -/
def rolOp (s : State) (v : Byte) : Byte × State := ((rol8 v (s.flag .c)).r, s.aluFlags (rol8 v (s.flag .c)))

/-- Rotate right through carry of a byte with its flags (R342, R361). -/
def rorOp (s : State) (v : Byte) : Byte × State := ((ror8 v (s.flag .c)).r, s.aluFlags (ror8 v (s.flag .c)))

/-- A 16-bit shift of D (R346, R357). -/
def State.shiftD (s : State) (q : Alu 16) : State := (s.setD q.r).aluFlags q

/-! ## Shift left (R343 to R346) and the second names of it (R350 to R353) -/

/-- ASL (R343). -/
def execAsl (m : Mem) (s : State) : Out := outcome (modify8 aslOp m s)

/-- ASLA (R344). -/
def execAsla (s : State) : Out := .next (modifyAcc aslOp .a s)

/-- ASLB (R345). -/
def execAslb (s : State) : Out := .next (modifyAcc aslOp .b s)

/-- ASLD (R346). -/
def execAsld (s : State) : Out := .next (s.shiftD (asl16 s.d))

/-- LSL, the same function as ASL (R350). -/
def execLsl (m : Mem) (s : State) : Out := outcome (modify8 aslOp m s)

/-- LSLA (R351). -/
def execLsla (s : State) : Out := .next (modifyAcc aslOp .a s)

/-- LSLB (R352). -/
def execLslb (s : State) : Out := .next (modifyAcc aslOp .b s)

/-- LSLD (R353). -/
def execLsld (s : State) : Out := .next (s.shiftD (asl16 s.d))

/-! ## Shift right (R347 to R349, R354 to R357) -/

/-- ASR (R347). -/
def execAsr (m : Mem) (s : State) : Out := outcome (modify8 asrOp m s)

/-- ASRA (R348). -/
def execAsra (s : State) : Out := .next (modifyAcc asrOp .a s)

/-- ASRB (R349). -/
def execAsrb (s : State) : Out := .next (modifyAcc asrOp .b s)

/-- LSR (R354). -/
def execLsr (m : Mem) (s : State) : Out := outcome (modify8 lsrOp m s)

/-- LSRA (R355). -/
def execLsra (s : State) : Out := .next (modifyAcc lsrOp .a s)

/-- LSRB (R356). -/
def execLsrb (s : State) : Out := .next (modifyAcc lsrOp .b s)

/-- LSRD (R357). -/
def execLsrd (s : State) : Out := .next (s.shiftD (lsr16 s.d))

/-! ## Rotates through carry (R358 to R363) -/

/-- ROL (R358). -/
def execRol (m : Mem) (s : State) : Out := outcome (modify8 rolOp m s)

/-- ROLA (R359). -/
def execRola (s : State) : Out := .next (modifyAcc rolOp .a s)

/-- ROLB (R360). -/
def execRolb (s : State) : Out := .next (modifyAcc rolOp .b s)

/-- ROR (R361). -/
def execRor (m : Mem) (s : State) : Out := outcome (modify8 rorOp m s)

/-- RORA (R362). -/
def execRora (s : State) : Out := .next (modifyAcc rorOp .a s)

/-- RORB (R363). -/
def execRorb (s : State) : Out := .next (modifyAcc rorOp .b s)

end Sys2Proof.Machine
end

