-- ==== Sys2Proof/Machine/Dispatch.lean ====
section
/-! DEFINITION. The dispatch: one arm per instruction, each one direct call of its meaning. -/

namespace Sys2Proof.Machine

/-- The effect of an instruction, with `pc` at the address after it (`npc`, R35; log 18). -/
def exec (i : Instr) (s : State) : Host.Outcome State Fault Refusal :=
  match i with
  | .suba op => Sys2Proof.Machine.execSuba op s
  | .cmpa op => Sys2Proof.Machine.execCmpa op s
  | .sbca op => Sys2Proof.Machine.execSbca op s
  | .anda op => Sys2Proof.Machine.execAnda op s
  | .bita op => Sys2Proof.Machine.execBita op s
  | .ldaa op => Sys2Proof.Machine.execLdaa op s
  | .eora op => Sys2Proof.Machine.execEora op s
  | .adca op => Sys2Proof.Machine.execAdca op s
  | .oraa op => Sys2Proof.Machine.execOraa op s
  | .adda op => Sys2Proof.Machine.execAdda op s
  | .subb op => Sys2Proof.Machine.execSubb op s
  | .cmpb op => Sys2Proof.Machine.execCmpb op s
  | .sbcb op => Sys2Proof.Machine.execSbcb op s
  | .andb op => Sys2Proof.Machine.execAndb op s
  | .bitb op => Sys2Proof.Machine.execBitb op s
  | .ldab op => Sys2Proof.Machine.execLdab op s
  | .eorb op => Sys2Proof.Machine.execEorb op s
  | .adcb op => Sys2Proof.Machine.execAdcb op s
  | .orab op => Sys2Proof.Machine.execOrab op s
  | .addb op => Sys2Proof.Machine.execAddb op s
  | .subd op => Sys2Proof.Machine.execSubd op s
  | .addd op => Sys2Proof.Machine.execAddd op s
  | .cpd op => Sys2Proof.Machine.execCpd op s
  | .cpy op => Sys2Proof.Machine.execCpy op s
  | .cpx op => Sys2Proof.Machine.execCpx op s
  | .cps op => Sys2Proof.Machine.execCps op s
  | .ldd op => Sys2Proof.Machine.execLdd op s
  | .ldy op => Sys2Proof.Machine.execLdy op s
  | .ldx op => Sys2Proof.Machine.execLdx op s
  | .lds op => Sys2Proof.Machine.execLds op s
  | .staa m => Sys2Proof.Machine.execStaa m s
  | .stab m => Sys2Proof.Machine.execStab m s
  | .std m => Sys2Proof.Machine.execStd m s
  | .sty m => Sys2Proof.Machine.execSty m s
  | .stx m => Sys2Proof.Machine.execStx m s
  | .sts m => Sys2Proof.Machine.execSts m s
  | .neg m => Sys2Proof.Machine.execNeg m s
  | .com m => Sys2Proof.Machine.execCom m s
  | .inc m => Sys2Proof.Machine.execInc m s
  | .dec m => Sys2Proof.Machine.execDec m s
  | .lsr m => Sys2Proof.Machine.execLsr m s
  | .rol m => Sys2Proof.Machine.execRol m s
  | .ror m => Sys2Proof.Machine.execRor m s
  | .asr m => Sys2Proof.Machine.execAsr m s
  | .asl m => Sys2Proof.Machine.execAsl m s
  | .lsl m => Sys2Proof.Machine.execLsl m s
  | .clr m => Sys2Proof.Machine.execClr m s
  | .tst m => Sys2Proof.Machine.execTst m s
  | .nega => Sys2Proof.Machine.execNega s
  | .negb => Sys2Proof.Machine.execNegb s
  | .coma => Sys2Proof.Machine.execComa s
  | .comb => Sys2Proof.Machine.execComb s
  | .inca => Sys2Proof.Machine.execInca s
  | .incb => Sys2Proof.Machine.execIncb s
  | .deca => Sys2Proof.Machine.execDeca s
  | .decb => Sys2Proof.Machine.execDecb s
  | .lsra => Sys2Proof.Machine.execLsra s
  | .lsrb => Sys2Proof.Machine.execLsrb s
  | .rola => Sys2Proof.Machine.execRola s
  | .rolb => Sys2Proof.Machine.execRolb s
  | .rora => Sys2Proof.Machine.execRora s
  | .rorb => Sys2Proof.Machine.execRorb s
  | .asra => Sys2Proof.Machine.execAsra s
  | .asrb => Sys2Proof.Machine.execAsrb s
  | .asla => Sys2Proof.Machine.execAsla s
  | .aslb => Sys2Proof.Machine.execAslb s
  | .lsla => Sys2Proof.Machine.execLsla s
  | .lslb => Sys2Proof.Machine.execLslb s
  | .asld => Sys2Proof.Machine.execAsld s
  | .lsld => Sys2Proof.Machine.execLsld s
  | .lsrd => Sys2Proof.Machine.execLsrd s
  | .clra => Sys2Proof.Machine.execClra s
  | .clrb => Sys2Proof.Machine.execClrb s
  | .tsta => Sys2Proof.Machine.execTsta s
  | .tstb => Sys2Proof.Machine.execTstb s
  | .psha => Sys2Proof.Machine.execPsha s
  | .pshb => Sys2Proof.Machine.execPshb s
  | .pshc => Sys2Proof.Machine.execPshc s
  | .pshd => Sys2Proof.Machine.execPshd s
  | .pshx => Sys2Proof.Machine.execPshx s
  | .pshy => Sys2Proof.Machine.execPshy s
  | .pula => Sys2Proof.Machine.execPula s
  | .pulb => Sys2Proof.Machine.execPulb s
  | .pulc => Sys2Proof.Machine.execPulc s
  | .puld => Sys2Proof.Machine.execPuld s
  | .pulx => Sys2Proof.Machine.execPulx s
  | .puly => Sys2Proof.Machine.execPuly s
  | .mul => Sys2Proof.Machine.execMul s
  | .dex => Sys2Proof.Machine.execDex s
  | .dey => Sys2Proof.Machine.execDey s
  | .inx => Sys2Proof.Machine.execInx s
  | .iny => Sys2Proof.Machine.execIny s
  | .nop => Sys2Proof.Machine.execNop s
  | .aba => Sys2Proof.Machine.execAba s
  | .daa => Sys2Proof.Machine.execDaa s
  | .tab => Sys2Proof.Machine.execTab s
  | .tba => Sys2Proof.Machine.execTba s
  | .idiv => Sys2Proof.Machine.execIdiv s
  | .fdiv => Sys2Proof.Machine.execFdiv s
  | .sba => Sys2Proof.Machine.execSba s
  | .cba => Sys2Proof.Machine.execCba s
  | .leay xb => Sys2Proof.Machine.execLeay xb s
  | .leax xb => Sys2Proof.Machine.execLeax xb s
  | .leas xb => Sys2Proof.Machine.execLeas xb s
  | .abx => Sys2Proof.Machine.execAbx s
  | .aby => Sys2Proof.Machine.execAby s
  | .des => Sys2Proof.Machine.execDes s
  | .ins => Sys2Proof.Machine.execIns s
  | .movb src dst => Sys2Proof.Machine.execMovb src dst s
  | .movw src dst => Sys2Proof.Machine.execMovw src dst s
  | .tfr r1 r2 => Sys2Proof.Machine.execTfr r1 r2 s
  | .exg r1 r2 => Sys2Proof.Machine.execExg r1 r2 s
  | .tap => Sys2Proof.Machine.execTap s
  | .tpa => Sys2Proof.Machine.execTpa s
  | .tsx => Sys2Proof.Machine.execTsx s
  | .tsy => Sys2Proof.Machine.execTsy s
  | .txs => Sys2Proof.Machine.execTxs s
  | .tys => Sys2Proof.Machine.execTys s
  | .xgdx => Sys2Proof.Machine.execXgdx s
  | .xgdy => Sys2Proof.Machine.execXgdy s
  | .andcc ii => Sys2Proof.Machine.execAndcc ii s
  | .orcc ii => Sys2Proof.Machine.execOrcc ii s
  | .clc => Sys2Proof.Machine.execClc s
  | .cli => Sys2Proof.Machine.execCli s
  | .clv => Sys2Proof.Machine.execClv s
  | .sec => Sys2Proof.Machine.execSec s
  | .sei => Sys2Proof.Machine.execSei s
  | .sev => Sys2Proof.Machine.execSev s
  | .bclr m mm => Sys2Proof.Machine.execBclr m mm s
  | .bset m mm => Sys2Proof.Machine.execBset m mm s
  | .brclr m mm rr => Sys2Proof.Machine.execBrclr m mm rr s
  | .brset m mm rr => Sys2Proof.Machine.execBrset m mm rr s
  | .bra rr => Sys2Proof.Machine.execBra rr s
  | .bhi rr => Sys2Proof.Machine.execBhi rr s
  | .bls rr => Sys2Proof.Machine.execBls rr s
  | .bcc rr => Sys2Proof.Machine.execBcc rr s
  | .bcs rr => Sys2Proof.Machine.execBcs rr s
  | .bne rr => Sys2Proof.Machine.execBne rr s
  | .beq rr => Sys2Proof.Machine.execBeq rr s
  | .bvc rr => Sys2Proof.Machine.execBvc rr s
  | .bvs rr => Sys2Proof.Machine.execBvs rr s
  | .bpl rr => Sys2Proof.Machine.execBpl rr s
  | .bmi rr => Sys2Proof.Machine.execBmi rr s
  | .bge rr => Sys2Proof.Machine.execBge rr s
  | .blt rr => Sys2Proof.Machine.execBlt rr s
  | .bgt rr => Sys2Proof.Machine.execBgt rr s
  | .ble rr => Sys2Proof.Machine.execBle rr s
  | .bhs rr => Sys2Proof.Machine.execBhs rr s
  | .blo rr => Sys2Proof.Machine.execBlo rr s
  | .jmp m => Sys2Proof.Machine.execJmp m s
  | .jsr m => Sys2Proof.Machine.execJsr m s
  | .bsr rr => Sys2Proof.Machine.execBsr rr s
  | .rts => Sys2Proof.Machine.execRts s
  | .dbeq c rel => Sys2Proof.Machine.execDbeq c rel s
  | .dbne c rel => Sys2Proof.Machine.execDbne c rel s
  | .tbeq c rel => Sys2Proof.Machine.execTbeq c rel s
  | .tbne c rel => Sys2Proof.Machine.execTbne c rel s
  | .ibeq c rel => Sys2Proof.Machine.execIbeq c rel s
  | .ibne c rel => Sys2Proof.Machine.execIbne c rel s
  | .swi => Sys2Proof.Machine.execSwi s
  | .rti => Sys2Proof.Machine.execRti s
  | .stop => Sys2Proof.Machine.execStop s

end Sys2Proof.Machine
end

