-- ==== Sys2Proof/Machine/Step.lean ====
section
/-! DEFINITION. One step of the machine: what happens at the boundary, then, where an instruction runs, its effect. -/

namespace Sys2Proof.Machine

/-- One step (R90, R445, R449, R480). -/
def step (s : State) : Host.Outcome State Fault Refusal :=
  match s.boundary with
  | .done r => outcome r
  | .run i s => exec i s

/-- The instruction of an opcode-table word where the next step fetches: its bytes at PC, 0 after them (log 3). -/
def State.withFetchWord (s : State) (nbits w : Nat) : State := s.placeAtPc (tableBytes nbits w)

end Sys2Proof.Machine
end

