-- ==== Sys2Proof/Machine/Run.lean ====
section
/-! DEFINITION. A run of the machine, up to what the parameter `EndOfRun` names as its end (R8, D25; log 23). -/

namespace Sys2Proof.Machine

/-- What a run of at most so many steps comes to. -/
inductive RunResult where
  /-- The run has ended, in this end state (D25). -/
  | ended (s : State)
  /-- The steps are used up and the run has not ended. -/
  | going (s : State)
  /-- A step met a fault; there is no end state (R442). -/
  | fault (f : Fault)
  /-- A step met a refusal; there is no end state (R442). -/
  | refused (r : Refusal)
  deriving DecidableEq, Repr

/-- Steps, `k` at most, until the run has ended (R8, D25). -/
def State.runToEnd (s : State) : Nat → RunResult
  | 0 => if s.runEnded then .ended s else .going s
  | k + 1 =>
    if s.runEnded then .ended s
    else
      match step s with
      | .next t => t.runToEnd k
      | .fault f => .fault f
      | .refused r => .refused r

end Sys2Proof.Machine
end

