-- ==== Sys2Proof/Safety.lean ====
section
/-! DEFINITION. The terms in which claims about the machine are stated: what an instruction leaves alone, what a safe map
and a well-kept state are, and which forms the spec gives no meaning to. -/

namespace Sys2Proof.Machine

/-! ## Names of registers -/

/-- The programmer-visible registers but PC and CCR (R30); D is A and B (R32). -/
inductive RegName where
  | a | b | x | y | sp
  deriving DecidableEq, Repr

/-- The value of a register, A and B zero-extended. -/
def State.reg (s : State) : RegName → Word
  | .a => s.a.setWidth 16
  | .b => s.b.setWidth 16
  | .x => s.x
  | .y => s.y
  | .sp => s.sp

/-- The name of an auto-adjusted register. -/
def autoName : AutoReg → RegName
  | .x => .x
  | .y => .y
  | .sp => .sp

/-- The registers an addressing mode updates: the base of an auto increment or decrement (R145), else none. -/
def adjusts : Option AutoReg → List RegName
  | some r => [autoName r]
  | none => []

/-- The destination registers behind an 8-bit register. -/
def reg8Names : Reg8 → List RegName
  | .a => [.a]
  | .b => [.b]

/-- The destination registers behind a 16-bit register (R32). -/
def reg16Names : Reg16 → List RegName
  | .d => [.a, .b]
  | .x => [.x]
  | .y => [.y]
  | .sp => [.sp]

/-- The destination registers behind a register of TFR and EXG; CCR is none of them (R222). -/
def regNames : Reg → List RegName
  | .a => [.a]
  | .b => [.b]
  | .ccr => []
  | .d => [.a, .b]
  | .x => [.x]
  | .y => [.y]
  | .sp => [.sp]

/-- The destination registers behind a counter of a loop primitive (R400). -/
def cntrNames : Cntr → List RegName
  | .a => [.a]
  | .b => [.b]
  | .d => [.a, .b]
  | .x => [.x]
  | .y => [.y]
  | .sp => [.sp]

/-- The value of a counter of a loop primitive as a number (R400). -/
def State.cntrVal (s : State) : Cntr → Nat
  | .a => s.a.toNat
  | .b => s.b.toNat
  | .d => s.d.toNat
  | .x => s.x.toNat
  | .y => s.y.toNat
  | .sp => s.sp.toNat

/-- 2 to the width of a counter (R400). -/
def cntrModulus : Cntr → Nat
  | .a | .b => 256
  | .d | .x | .y | .sp => 65536

/-- The eight bits of CCR after `LoadCCR(v)` (R47): X is its old value and `v[6]`, every other bit is the bit of `v`. -/
def loadedFlags (s : State) (v : Byte) : List (Flag × Bool) :=
  [(.s, v.getLsbD 7), (.x, s.flag .x && v.getLsbD 6), (.h, v.getLsbD 5), (.i, v.getLsbD 4), (.n, v.getLsbD 3),
   (.z, v.getLsbD 2), (.v, v.getLsbD 1), (.c, v.getLsbD 0)]

/-! ## Frames -/

/-- From `s` to `t`: only the registers listed may differ; the flags listed have the values listed; every other bit of CCR is
as it was, but for those in `free`, of which nothing is said; the stopped state, the inputs to come and the parameters are
as they were. -/
structure State.Effect (s t : State) (regs : List RegName) (flags : List (Flag × Bool)) (free : List Flag) : Prop where
  regs : ∀ r, r ∉ regs → t.reg r = s.reg r
  flagsSet : ∀ p ∈ flags, t.flag p.1 = p.2
  flagsKept : ∀ f, f ∉ flags.map Prod.fst → f ∉ free → t.flag f = s.flag f
  stopped : t.stopped = s.stopped
  inputs : t.inputs = s.inputs
  cfg : t.cfg = s.cfg

/-- Every byte of memory reads as before. -/
def State.SameMem (s t : State) : Prop := ∀ a, t.byteAt a = s.byteAt a

/-- Every byte of memory reads as before but the `n` bytes from `lo` upward, modulo 2^16. -/
def State.SameMemBut (s t : State) (lo : Word) (n : Nat) : Prop := ∀ a, n ≤ (a - lo).toNat → t.byteAt a = s.byteAt a

/-- The 16-bit value at an address and the next (R64). -/
def State.wordAt (s : State) (a : Word) : Word := mkWord (s.byteAt a) (s.byteAt (a + 1))

/-- The nine bytes from `p` upward hold the exception frame of `s`, whose `pc` is the return address (R80). -/
structure State.FrameAt (t : State) (p : Word) (s : State) : Prop where
  ccr : t.byteAt p = s.ccr
  b : t.byteAt (p + 1) = s.b
  a : t.byteAt (p + 2) = s.a
  x : t.wordAt (p + 3) = s.x
  y : t.wordAt (p + 5) = s.y
  rtn : t.wordAt (p + 7) = s.pc

/-! ## The memory map -/

/-- A byte of plain memory that admits the access. -/
def State.PlainAt (s : State) (k : Access) (a : Word) : Prop := s.admits k a = true ∧ s.isDevice a = false

/-- The `n` bytes from `a` upward, modulo 2^16, are plain memory that admits the access. -/
def State.PlainFrom (s : State) (k : Access) (a : Word) (n : Nat) : Prop :=
  ∀ j, j < n → s.PlainAt k (a + BitVec.ofNat 16 j)

/-- Every address is plain memory that admits every access. -/
def State.AllPlain (s : State) : Prop := ∀ a k, s.PlainAt k a

/-! ## What it is for an instruction to complete

Each says that `exec i s` answers a next state, and names the registers and flags that may change in it. -/

/-- `i` completes in `s`: no byte of memory changes, PC stays at `npc` (R35), and `post` holds of the next state. -/
def Completes (i : Instr) (s : State) (regs : List RegName) (flags : List (Flag × Bool)) (post : State → Prop) : Prop :=
  ∃ t, exec i s = .next t ∧ s.Effect t regs flags [] ∧ s.SameMem t ∧ t.pc = s.pc ∧ post t

/-- `i` completes in `s`: of memory only the `n` bytes from `lo` upward may change, PC stays at `npc`, and `post` holds. -/
def CompletesStore (i : Instr) (s : State) (regs : List RegName) (flags : List (Flag × Bool)) (lo : Word) (n : Nat)
    (post : State → Prop) : Prop :=
  ∃ t, exec i s = .next t ∧ s.Effect t regs flags [] ∧ s.SameMemBut t lo n ∧ t.pc = s.pc ∧ post t

/-- `i` completes in `s` with PC at `target`: no byte of memory and no flag changes, and `post` holds. -/
def CompletesAt (i : Instr) (s : State) (regs : List RegName) (target : Word) (post : State → Prop) : Prop :=
  ∃ t, exec i s = .next t ∧ s.Effect t regs [] [] ∧ s.SameMem t ∧ t.pc = target ∧ post t

/-- `i` calls the subroutine at `target`: the return address `npc` is the word at the new SP, high byte first, and nothing
else of memory changes (R394, R395, R397). -/
def CompletesCall (i : Instr) (s : State) (regs : List RegName) (target : Word) (post : State → Prop) : Prop :=
  ∃ t, exec i s = .next t ∧ s.Effect t (.sp :: regs) [] [] ∧ s.SameMemBut t (s.sp - 2) 2 ∧ t.pc = target ∧
    t.sp = s.sp - 2 ∧ t.wordAt (s.sp - 2) = s.pc ∧ post t

/-- The shape of a one-operand instruction (R245): `f` its memory form, `onA` and `onB` its accumulator forms, `g` the result
and `fl` the flags from the old C and the operand. The memory form reads and writes one plain byte. -/
def OneOperand (f : Mem → Instr) (onA onB : Instr) (g : Bool → Byte → Byte) (fl : Bool → Byte → List (Flag × Bool)) : Prop :=
  (∀ m s ea s1, Memory.wf s.mem → s.ea m = .ok (ea, s1) → s.PlainAt .read ea → s.PlainAt .write ea →
    CompletesStore (f m) s (adjusts (memAuto m)) (fl (s.flag .c) (s.byteAt ea)) ea 1 fun t =>
      t.byteAt ea = g (s.flag .c) (s.byteAt ea) ∧ ∀ q ∈ adjusts (memAuto m), t.reg q = s1.reg q) ∧
  (∀ s, Completes onA s [.a] (fl (s.flag .c) s.a) fun t => t.a = g (s.flag .c) s.a) ∧
  (∀ s, Completes onB s [.b] (fl (s.flag .c) s.b) fun t => t.b = g (s.flag .c) s.b)

/-! ## Encodings of a family

Each says which bytes decode to which form; an `xb` with its extension bytes is given by the form it stands for. -/

/-- The eight forms of an instruction with an 8-bit operand (R171, R241), `o` the IMM opcode. -/
def EightForms8 (o : Byte) (f : Src8 → Instr) : Prop :=
  ∀ rest : List Byte, (∀ ii, decode (o :: ii :: rest) = .ok (f (.imm ii), rest)) ∧
    (∀ dd, decode ((o + 0x10) :: dd :: rest) = .ok (f (.mem (.dir dd)), rest)) ∧
    (∀ hh ll, decode ((o + 0x30) :: hh :: ll :: rest) = .ok (f (.mem (.ext (hh ++ ll))), rest)) ∧
    (∀ i : Idx, decode ((o + 0x20) :: (i.encode ++ rest)) = .ok (f (.mem (.idx i)), rest))

/-- The seven forms of a store (R178), `o` the DIR opcode. -/
def StoreForms (o : Byte) (f : Mem → Instr) : Prop :=
  ∀ rest : List Byte, (∀ dd, decode (o :: dd :: rest) = .ok (f (.dir dd), rest)) ∧
    (∀ hh ll, decode ((o + 0x20) :: hh :: ll :: rest) = .ok (f (.ext (hh ++ ll)), rest)) ∧
    (∀ i : Idx, decode ((o + 0x10) :: (i.encode ++ rest)) = .ok (f (.idx i), rest))

/-- The forms of a one-operand instruction (R245), `n` the low nibble of its opcodes. -/
def OneOperandForms (n : Byte) (f : Mem → Instr) (onA onB : Instr) : Prop :=
  ∀ rest : List Byte, decode ((0x40 + n) :: rest) = .ok (onA, rest) ∧ decode ((0x50 + n) :: rest) = .ok (onB, rest) ∧
    (∀ hh ll, decode ((0x70 + n) :: hh :: ll :: rest) = .ok (f (.ext (hh ++ ll)), rest)) ∧
    (∀ i : Idx, decode ((0x60 + n) :: (i.encode ++ rest)) = .ok (f (.idx i), rest))

/-! ## A well-kept state -/

/-- The invariant of the machine: memory is in its one canonical form and the queue notes no address twice. -/
structure State.Inv (s : State) : Prop where
  mem : Memory.wf s.mem
  stale : s.stale.Nodup

/-! ## Forms without a meaning -/

/-- The forms that R152 gives no meaning to: the auto-adjusted base is also the register operand (the stack pointer of a
JSR), or a move adjusts one register for both its operands. -/
def autoOverlap : Instr → Bool
  | .cpx op | .ldx op => overlaps (src16Auto op) (some .x)
  | .cpy op | .ldy op => overlaps (src16Auto op) (some .y)
  | .cps op | .lds op => overlaps (src16Auto op) (some .sp)
  | .stx m => overlaps (memAuto m) (some .x)
  | .sty m => overlaps (memAuto m) (some .y)
  | .sts m | .jsr m => overlaps (memAuto m) (some .sp)
  | .leax i => overlaps (idxAuto i) (some .x)
  | .leay i => overlaps (idxAuto i) (some .y)
  | .leas i => overlaps (idxAuto i) (some .sp)
  | .movb src dst => overlaps (src8Auto src) (memAuto dst)
  | .movw src dst => overlaps (src16Auto src) (memAuto dst)
  | _ => false

/-- The forms that R147 gives no meaning to: PC as index base where bytes follow the post-byte and its extension. -/
def pcTrailing : Instr → Bool
  | .bclr m _ | .bset m _ | .brclr m _ _ | .brset m _ _ => memOnPc m
  | .movb src dst => src8OnPc src || memOnPc dst
  | .movw src dst => src16OnPc src || memOnPc dst
  | _ => false

/-- The instructions that may change H (R43): the five 8-bit additions and those that write the whole CCR. -/
def mayChangeH : Instr → Bool
  | .aba | .adca _ | .adcb _ | .adda _ | .addb _ | .pulc | .rti | .tap | .andcc _ | .orcc _ => true
  | .tfr _ r => r == .ccr
  | .exg r1 r2 => r1 == .ccr || r2 == .ccr
  | _ => false

/-! ## Transfers of control -/

/-- The instruction transfers control in `s`: it is a jump, a call, a return or SWI, a branch whose condition holds (R372, R391,
R392) or a loop primitive whose branch is taken (R400). These refill the instruction queue (R78(d)). -/
def State.transfers (s : State) : Instr → Bool
  | .jmp _ | .jsr _ | .bsr _ | .rts | .swi | .rti | .bra _ => true
  | .bcc _ | .bhs _ => !s.flag .c
  | .bcs _ | .blo _ => s.flag .c
  | .bne _ => !s.flag .z
  | .beq _ => s.flag .z
  | .bvc _ => !s.flag .v
  | .bvs _ => s.flag .v
  | .bpl _ => !s.flag .n
  | .bmi _ => s.flag .n
  | .bhi _ => !(s.flag .c || s.flag .z)
  | .bls _ => s.flag .c || s.flag .z
  | .bge _ => !(s.flag .n ^^ s.flag .v)
  | .blt _ => s.flag .n ^^ s.flag .v
  | .bgt _ => !(s.flag .z || (s.flag .n ^^ s.flag .v))
  | .ble _ => s.flag .z || (s.flag .n ^^ s.flag .v)
  | .brclr m mm _ =>
    match s.opnd8 (.mem m) with
    | .ok (v, _) => v &&& mm == 0
    | .error _ => false
  | .brset m mm _ =>
    match s.opnd8 (.mem m) with
    | .ok (v, _) => v &&& mm == mm
    | .error _ => false
  | .dbeq c _ => s.cntrVal c == 1
  | .dbne c _ => s.cntrVal c != 1
  | .ibeq c _ => s.cntrVal c + 1 == cntrModulus c
  | .ibne c _ => s.cntrVal c + 1 != cntrModulus c
  | .tbeq c _ => s.cntrVal c == 0
  | .tbne c _ => s.cntrVal c != 0
  | _ => false

/-! ## Accesses that stop (R63) -/

/-- Of the accesses at the addresses `as`, made in this order, the one at `a` is the first that `MemMap` does not admit. -/
def State.StopsAt (s : State) (k : Access) (as : List Word) (a : Word) : Prop :=
  ∃ before after, as = before ++ a :: after ∧ (∀ b ∈ before, s.admits k b = true) ∧ s.admits k a = false

/-- The addresses of the nine bytes of an exception frame below `sp`, in the order they are written (R80, R421),
of a word the lower address first (log 27). -/
def frameWrites (sp : Word) : List Word :=
  [sp - 2, sp - 1, sp - 4, sp - 3, sp - 6, sp - 5, sp - 8, sp - 7, sp - 9]

/-- The addresses of the nine bytes that RTI reads from `sp` upward, in the order they are read (R422), of a word
the lower address first (log 27). -/
def frameReads (sp : Word) : List Word := [sp, sp + 1, sp + 2, sp + 3, sp + 4, sp + 7, sp + 8, sp + 5, sp + 6]

/-- The instructions with an 8-bit operand (R171, R241). -/
def byteReaders : List (Src8 → Instr) :=
  [.ldaa, .ldab, .adda, .addb, .adca, .adcb, .suba, .subb, .sbca, .sbcb, .cmpa, .cmpb, .anda, .andb, .bita, .bitb,
   .eora, .eorb, .oraa, .orab]

/-- The instructions with a 16-bit operand (R171, R241). -/
def wordReaders : List (Src16 → Instr) := [.ldd, .ldx, .ldy, .lds, .cpd, .cpx, .cpy, .cps, .addd, .subd]

/-- The 16-bit stores (R178). -/
def wordWriters : List (Mem → Instr) := [.std, .stx, .sty, .sts]

/-- The instructions that read and then write one byte of memory (R245), but for BCLR and BSET. -/
def byteModifiers : List (Mem → Instr) := [.neg, .com, .inc, .dec, .lsr, .rol, .ror, .asr, .asl, .lsl]

/-! ## Quiet boundaries -/

/-- Nothing happens at the coming boundary but the next instruction: the CPU is not stopped, no reset and no enabled
request (R445, R450). -/
def State.Quiet (s : State) : Prop :=
  s.stopped = false ∧ s.popInput.1.reset = false ∧ s.chosenIrq s.popInput.1.pending = none

/-- The first `k` of the bytes stand at PC in plain memory that admits their fetch, none of them stale in the queue. -/
def State.CodeUpTo (s : State) (bytes : List Byte) (k : Nat) : Prop :=
  ∀ j, j < k → s.PlainAt .fetch (s.pc + BitVec.ofNat 16 j) ∧ s.pc + BitVec.ofNat 16 j ∉ s.stale ∧
    bytes[j]? = some (s.byteAt (s.pc + BitVec.ofNat 16 j))

/-- The bytes stand at PC in plain memory that admits their fetch, and none of them is stale in the queue (R63, R78, R79). -/
def State.CodeAtPc (s : State) (bytes : List Byte) : Prop :=
  ∀ k, (h : k < bytes.length) → s.PlainAt .fetch (s.pc + BitVec.ofNat 16 k) ∧
    s.pc + BitVec.ofNat 16 k ∉ s.stale ∧ s.byteAt (s.pc + BitVec.ofNat 16 k) = bytes[k]

/-! ## Safe runs -/

/-- `k` steps that meet no fault and no refusal end in `t`. -/
def State.RunsTo (s : State) (k : Nat) (t : State) : Prop :=
  Host.Core.run { State := State, Fault := Fault, Refusal := Refusal, step := step, reset := State.reset } k s = .next t

/-- No run from `s` meets a fault or a refusal within `k` steps. -/
def State.SafeFor (s : State) (k : Nat) : Prop := ∃ t, s.RunsTo k t

end Sys2Proof.Machine
end

