-- ==== Sys2Proof/Certificates/Slice0/Obligations.lean ====
section
/-! DEFINITION. The statements for the provers, each about the machine and none about a program. Their vocabulary
(`Completes`, `OneOperand`, `State.FrameAt`, …) is Safety.lean's. -/

section

open Sys2Proof Sys2Proof.Machine

/-! ## Encoding -/

/-- Words written out bit by bit from the spec's encoding tables decode to the instruction they stand for, one or more of
every family (R91, R100, R103, R104, R106, R110, R115, R120, R121). -/
def Obligations.SpecWordsDecode : Prop :=
  decode [0x86, 0x5A] = .ok (.ldaa (.imm 0x5A), []) ∧
  decode [0xEE, 0x71] = .ok (.ldx (.mem (.idx (.auto .y true 1))), []) ∧
  decode [0x7C, 0x12, 0x34] = .ok (.std (.ext 0x1234), []) ∧
  decode [0x1A, 0xE1, 0x9C] = .ok (.leax (.ofs9 .x 0x19C), []) ∧
  decode [0x18, 0x08, 0x30, 0xAA] = .ok (.movb (.imm 0xAA) (.idx (.auto .x true 0)), []) ∧
  decode [0x18, 0x05, 0x31, 0x90, 0x00] = .ok (.movw (.mem (.idx (.auto .x true 1))) (.ext 0x9000), []) ∧
  decode [0x3B] = .ok (.pshd, []) ∧
  decode [0xB7, 0x45] = .ok (.tfr .d .x, []) ∧
  decode [0xB7, 0xC5] = .ok (.exg .d .x, []) ∧
  decode [0xA9, 0xE3, 0x01, 0x00] = .ok (.adca (.mem (.idx (.ind16 .x 0x0100))), []) ∧
  decode [0x18, 0x07] = .ok (.daa, []) ∧
  decode [0x14, 0x11] = .ok (.orcc 0x11, []) ∧
  decode [0x0D, 0xE0, 0x64, 0x01] = .ok (.bclr (.idx (.ofs9 .x 100)) 0x01, []) ∧
  decode [0x76, 0x10, 0x00] = .ok (.ror (.ext 0x1000), []) ∧
  decode [0x23, 0x04] = .ok (.bls 0x04, []) ∧
  decode [0x4E, 0x20, 0x30, 0x05] = .ok (.brset (.dir 0x20) 0x30 0x05, []) ∧
  decode [0x15, 0xE7] = .ok (.jsr (.idx (.indD .x)), []) ∧
  decode [0x04, 0x31, 0xFB] = .ok (.dbne .b 0x1FB, []) ∧
  decode [0x18, 0x3E] = .ok (.stop, [])

/-- The bytes of a well-formed instruction, with any bytes after them, decode to that instruction (to the core instruction,
where it is an alias: R123, R130) and leave the bytes after it. -/
def Obligations.DecodeEncode : Prop :=
  ∀ (i : Instr) (rest : List Byte), i.wellFormed = true → decode (encode i ++ rest) = .ok (i.core, rest)

/-- Whatever decodes is a well-formed core instruction whose bytes stand at the head: no reserved or unlisted encoding is
read as an instruction, and no bit of an instruction is dropped (R107, R126, R127). -/
def Obligations.DecodeSound : Prop :=
  ∀ (bs rest : List Byte) (i : Instr), decode bs = .ok (i, rest) →
    i.wellFormed = true ∧ i.core = i ∧ bs = encode i ++ rest

/-- The unlisted encodings are rejected by name (R126, R127): the ten opcodes of page 1, all but 21 of page 2, the post-bytes
of TFR and EXG with bit 3 set or a register code 3, those of the loop primitives with bit 3 set, a counter code 2 or 3 or a
primitive 6 or 7, and the `xb` classes a row does not list, in either post-byte of a move (R107). -/
def Obligations.UnlistedEncodings : Prop :=
  (∀ (op : Byte) (bs : List Byte),
    op ∈ ([0x00, 0x01, 0x0A, 0x11, 0x13, 0x21, 0x3C, 0x3E, 0x4A, 0x4B] : List Byte) →
      decode (op :: bs) = .error (.illegal [op])) ∧
  (∀ (op : Byte) (bs : List Byte),
    op ∉ ([0x00, 0x01, 0x02, 0x03, 0x04, 0x05, 0x06, 0x07, 0x08, 0x09, 0x0A, 0x0B, 0x0C, 0x0D, 0x0E, 0x0F,
      0x10, 0x11, 0x16, 0x17, 0x3E] : List Byte) →
      decode (0x18 :: op :: bs) = .error (.illegal [0x18, op])) ∧
  (∀ (eb : Byte) (bs : List Byte), eb.getLsbD 3 = true ∨ eb.extractLsb' 4 3 = 3 ∨ eb.extractLsb' 0 3 = 3 →
    decode (0xB7 :: eb :: bs) = .error (.illegal [0xB7, eb])) ∧
  (∀ (lb : Byte) (bs : List Byte), lb.getLsbD 3 = true ∨ 6 ≤ (lb.extractLsb' 5 3).toNat ∨ lb.extractLsb' 0 3 = 2 ∨
      lb.extractLsb' 0 3 = 3 →
    decode (0x04 :: lb :: bs) = .error (.illegal [0x04, lb])) ∧
  (∀ (op xb : Byte) (bs : List Byte), op ∈ ([0x0C, 0x0D, 0x0E, 0x0F, 0x19, 0x1A, 0x1B] : List Byte) →
    xb &&& 0xE3 = 0xE3 → decode (op :: xb :: bs) = .error (.illegal [op, xb])) ∧
  (∀ (op xb : Byte) (bs : List Byte), op ∈ ([0x00, 0x01, 0x02, 0x05, 0x08, 0x09, 0x0A, 0x0D] : List Byte) →
    xb &&& 0xE4 = 0xE0 ∨ xb &&& 0xE7 = 0xE7 → decode (0x18 :: op :: xb :: bs) = .error (.illegal [0x18, op, xb])) ∧
  (∀ (op xb xb2 : Byte) (bs : List Byte), op ∈ ([0x02, 0x0A] : List Byte) →
    ¬(xb &&& 0xE4 = 0xE0 ∨ xb &&& 0xE7 = 0xE7) → xb2 &&& 0xE4 = 0xE0 ∨ xb2 &&& 0xE7 = 0xE7 →
      decode (0x18 :: op :: xb :: xb2 :: bs) = .error (.illegal [0x18, op, xb2]))

/-! ## The step -/

/-- At a boundary where nothing else happens, when the bytes at PC decode to an instruction, the step is that instruction's
`exec` in the state whose PC is the address after it and whose input of this boundary is used up (R35, R90, R445). -/
def Obligations.StepRunsDecoded : Prop :=
  ∀ (s : State) (bytes : List Byte) (i : Instr), s.Quiet → decode bytes = .ok (i, []) → s.CodeAtPc bytes →
    step s = exec i { s with pc := s.pc + BitVec.ofNat 16 bytes.length, inputs := s.inputs.tail }

/-- At a boundary where nothing else happens, an unlisted encoding at PC is a fault that names its bytes; nothing is pushed
and no vector is read (R127, R442, D7). -/
def Obligations.StepFaultsOnUnlisted : Prop :=
  ∀ (s : State) (bytes shown : List Byte), bytes.length ≤ 6 → s.Quiet → decode bytes = .error (.illegal shown) →
    s.CodeAtPc bytes → step s = .fault (.illegalOpcode shown)

/-- Stores into the instruction queue (D16, the model's mechanism: log 9): a store is noted when and only when it falls into
the `QUEUE_BYTES` bytes from `npc` on; the fetch of a noted byte, any of the instruction's, is refused; a transfer of control
(a taken branch, jump, call, return, SWI), an interrupt entry, a wake-up and a reset forget what was noted, and no other
instruction forgets any of it. -/
def Obligations.SelfModification : Prop :=
  (∀ (s t : State) (a b : Word) (v : Byte), s.PlainAt .write a → s.write8 a v = .ok t →
    (b ∈ t.stale ↔ b ∈ s.stale ∨ (b = a ∧ (a - s.pc).toNat < s.cfg.queueBytes))) ∧
  (∀ s : State, s.Quiet → s.admits .fetch s.pc = true → s.pc ∈ s.stale →
    step s = .refused (.storeIntoPrefetchWindow s.pc)) ∧
  (∀ (s : State) (bytes : List Byte) (i : Instr) (k : Nat) (a : Word), s.Quiet → decode bytes = .ok (i, []) →
    k < bytes.length → s.CodeUpTo bytes k → a = s.pc + BitVec.ofNat 16 k → s.admits .fetch a = true → a ∈ s.stale →
    step s = .refused (.storeIntoPrefetchWindow a)) ∧
  (∀ (i : Instr) (s t : State), exec i s = .next t →
    (s.transfers i = true → t.stale = []) ∧ (s.transfers i = false → ∀ b ∈ s.stale, b ∈ t.stale)) ∧
  (∀ s t : State, s.popInput.1.reset = true ∨ (s.chosenIrq s.popInput.1.pending).isSome = true → step s = .next t →
    t.stale = [])

/-! ## Operands and memory -/

/-- The effective address of every form, with the register an auto form adjusts by +1 to +8 or –8 to –1 (R103, R141, R144 to
R150). PC as base is `npc` (R147). -/
def Obligations.EffectiveAddresses : Prop :=
  ∀ s : State,
    (∀ dd, s.ea (.dir dd) = .ok (BitVec.ofNat 16 dd.toNat, s)) ∧
    (∀ a, s.ea (.ext a) = .ok (a, s)) ∧
    (∀ r n, s.ea (.idx (.ofs5 r n)) = .ok (s.base r + BitVec.ofInt 16 n.toInt, s)) ∧
    (∀ r n, s.ea (.idx (.ofs9 r n)) = .ok (s.base r + BitVec.ofInt 16 n.toInt, s)) ∧
    (∀ r n, s.ea (.idx (.ofs16 r n)) = .ok (s.base r + n, s)) ∧
    (∀ r, s.ea (.idx (.acc r .a)) = .ok (s.base r + BitVec.ofNat 16 s.a.toNat, s)) ∧
    (∀ r, s.ea (.idx (.acc r .b)) = .ok (s.base r + BitVec.ofNat 16 s.b.toNat, s)) ∧
    (∀ r, s.ea (.idx (.acc r .d)) = .ok (s.base r + mkWord s.a s.b, s)) ∧
    (∀ r (n : BitVec 4), ∃ adj : Int, ((n.toNat < 8 → adj = n.toNat + 1) ∧ (8 ≤ n.toNat → adj = n.toNat - 16)) ∧
      s.ea (.idx (.auto r false n)) =
        .ok (s.autoVal r + BitVec.ofInt 16 adj, s.setAuto r (s.autoVal r + BitVec.ofInt 16 adj)) ∧
      s.ea (.idx (.auto r true n)) = .ok (s.autoVal r, s.setAuto r (s.autoVal r + BitVec.ofInt 16 adj))) ∧
    (∀ r n, s.PlainFrom .read (s.base r + n) 2 → s.ea (.idx (.ind16 r n)) = .ok (s.wordAt (s.base r + n), s)) ∧
    (∀ r, s.PlainFrom .read (s.base r + mkWord s.a s.b) 2 →
      s.ea (.idx (.indD r)) = .ok (s.wordAt (s.base r + mkWord s.a s.b), s))

/-- The operands of R142: an immediate is its value, a memory operand the plain byte or word at the effective address; the
evaluation changes no memory, no flag and no register but the one an auto form adjusts (R145). -/
def Obligations.OperandValues : Prop :=
  (∀ (s : State) (ii : Byte), s.opnd8 (.imm ii) = .ok (ii, s)) ∧
  (∀ (s : State) (jjkk : Word), s.opnd16 (.imm jjkk) = .ok (jjkk, s)) ∧
  (∀ (s s1 : State) (m : Mem) (ea : Word), s.ea m = .ok (ea, s1) →
    s.Effect s1 (adjusts (memAuto m)) [] [] ∧ s.SameMem s1 ∧ s1.pc = s.pc ∧
    (s.PlainFrom .read ea 1 → s.opnd8 (.mem m) = .ok (s.byteAt ea, s1)) ∧
    (s.PlainFrom .read ea 2 → s.opnd16 (.mem m) = .ok (s.wordAt ea, s1)))

/-- A word written to two plain bytes is there, high byte at the lower address, is read back as it was written, and no other
byte of memory changes (R64, R67, R68, R70). -/
def Obligations.WordAccess : Prop :=
  ∀ (s : State) (a v : Word), Memory.wf s.mem → s.PlainFrom .write a 2 → s.PlainFrom .read a 2 →
    ∃ t, s.write16 a v = .ok t ∧ t.byteAt a = v.extractLsb' 8 8 ∧ t.byteAt (a + 1) = v.extractLsb' 0 8 ∧
      t.read16 a = .ok (v, t) ∧ s.SameMemBut t a 2

/-- What one push leaves on the stack the matching pull takes off again, and SP is as before (R20, R34, R214, R221). -/
def Obligations.StackRoundTrip : Prop :=
  ∀ (s t u : State), Memory.wf s.mem → s.PlainFrom .write (s.sp - 2) 2 → s.PlainFrom .read (s.sp - 2) 2 →
    exec .pshx s = .next t → exec .puly t = .next u →
      u.y = s.x ∧ u.x = s.x ∧ u.sp = s.sp ∧ t.sp = s.sp - 2 ∧ s.SameMemBut u (s.sp - 2) 2

/-- An access that `MemMap` does not admit stops the machine by name and invents no value (R63, R442, D4): operand bytes and
words, the pointers of the indirect forms, pushes and pulls, the frames and vectors of exceptions, the vector of reset, and
any byte of an instruction. Of the accesses of one instruction the first such one stops it, in the order its rule lists
them (R72), and an instruction faults for no other reason. That of the two bytes of a word (operand, pointer, push, pull,
pair of a frame, vector) the lower address comes first, so that the fault names it where both are unadmitted, is the
model's choice (log 27): R72 and D22 call that order notation only. -/
def Obligations.UnadmittedAccess : Prop :=
  -- operands in memory
  (∀ (s s1 : State) (m : Mem) (ea : Word), s.ea m = .ok (ea, s1) → s.admits .read ea = false →
    (∀ f ∈ byteReaders, exec (f (.mem m)) s = .fault (.unadmittedRead ea)) ∧
    (∀ f ∈ .tst :: byteModifiers, exec (f m) s = .fault (.unadmittedRead ea)) ∧
    (memOnPc m = false → ∀ mm rr : Byte, ∀ i ∈ ([.bclr m mm, .bset m mm, .brclr m mm rr, .brset m mm rr] : List Instr),
      exec i s = .fault (.unadmittedRead ea))) ∧
  (∀ (s s1 : State) (m : Mem) (ea : Word), s.ea m = .ok (ea, s1) → s.admits .write ea = false →
    (∀ f ∈ ([.staa, .stab, .clr] : List (Mem → Instr)), exec (f m) s = .fault (.unadmittedWrite ea)) ∧
    (s.admits .read ea = true → ∀ f ∈ byteModifiers, exec (f m) s = .fault (.unadmittedWrite ea)) ∧
    (s.admits .read ea = true → memOnPc m = false → ∀ mm : Byte, ∀ i ∈ ([.bclr m mm, .bset m mm] : List Instr),
      exec i s = .fault (.unadmittedWrite ea))) ∧
  (∀ (s s1 : State) (m : Mem) (ea a : Word), s.ea m = .ok (ea, s1) → s.StopsAt .read [ea, ea + 1] a →
    ∀ f ∈ wordReaders, autoOverlap (f (.mem m)) = false → exec (f (.mem m)) s = .fault (.unadmittedRead a)) ∧
  (∀ (s s1 : State) (m : Mem) (ea a : Word), s.ea m = .ok (ea, s1) → s.StopsAt .write [ea, ea + 1] a →
    ∀ f ∈ wordWriters, autoOverlap (f m) = false → exec (f m) s = .fault (.unadmittedWrite a)) ∧
  (∀ (s s1 : State) (m dst : Mem) (ea a : Word), s.ea m = .ok (ea, s1) →
    (pcTrailing (.movb (.mem m) dst) = false → autoOverlap (.movb (.mem m) dst) = false → s.StopsAt .read [ea] a →
      exec (.movb (.mem m) dst) s = .fault (.unadmittedRead a)) ∧
    (pcTrailing (.movw (.mem m) dst) = false → autoOverlap (.movw (.mem m) dst) = false → s.StopsAt .read [ea, ea + 1] a →
      exec (.movw (.mem m) dst) s = .fault (.unadmittedRead a))) ∧
  (∀ (s s1 s2 : State) (src : Src8) (dst : Mem) (v : Byte) (ea a : Word), s.opnd8 src = .ok (v, s1) →
    s1.ea dst = .ok (ea, s2) → pcTrailing (.movb src dst) = false → autoOverlap (.movb src dst) = false →
    s.StopsAt .write [ea] a → exec (.movb src dst) s = .fault (.unadmittedWrite a)) ∧
  (∀ (s s1 s2 : State) (src : Src16) (dst : Mem) (v : Word) (ea a : Word), s.opnd16 src = .ok (v, s1) →
    s1.ea dst = .ok (ea, s2) → pcTrailing (.movw src dst) = false → autoOverlap (.movw src dst) = false →
    s.StopsAt .write [ea, ea + 1] a → exec (.movw src dst) s = .fault (.unadmittedWrite a)) ∧
  -- the pointers of the indirect forms
  (∀ (s : State) (i : Idx) (p a : Word), s.StopsAt .read [p, p + 1] a →
    ((∃ r n, i = .ind16 r n ∧ p = s.base r + n) ∨ (∃ r, i = .indD r ∧ p = s.base r + s.d)) →
    (∀ f ∈ byteReaders, exec (f (.mem (.idx i))) s = .fault (.unadmittedRead a)) ∧
    (∀ f ∈ wordReaders, exec (f (.mem (.idx i))) s = .fault (.unadmittedRead a)) ∧
    (∀ f ∈ .staa :: .stab :: .clr :: .tst :: .jmp :: .jsr :: (wordWriters ++ byteModifiers),
      exec (f (.idx i)) s = .fault (.unadmittedRead a))) ∧
  -- the stack
  (∀ (s : State) (a : Word), s.StopsAt .write [s.sp - 1] a →
    ∀ i ∈ ([.psha, .pshb, .pshc] : List Instr), exec i s = .fault (.unadmittedWrite a)) ∧
  (∀ (s : State) (a : Word), s.StopsAt .write [s.sp - 2, s.sp - 1] a →
    (∀ i ∈ ([.pshd, .pshx, .pshy] : List Instr), exec i s = .fault (.unadmittedWrite a)) ∧
    (∀ rr, exec (.bsr rr) s = .fault (.unadmittedWrite a)) ∧
    (∀ (m : Mem) (ea : Word) (s1 : State), s.ea m = .ok (ea, s1) → autoOverlap (.jsr m) = false →
      exec (.jsr m) s = .fault (.unadmittedWrite a))) ∧
  (∀ (s : State) (a : Word), s.StopsAt .read [s.sp] a →
    ∀ i ∈ ([.pula, .pulb, .pulc] : List Instr), exec i s = .fault (.unadmittedRead a)) ∧
  (∀ (s : State) (a : Word), s.StopsAt .read [s.sp, s.sp + 1] a →
    ∀ i ∈ ([.puld, .pulx, .puly, .rts] : List Instr), exec i s = .fault (.unadmittedRead a)) ∧
  -- exceptions and reset
  (∀ (s : State) (a : Word), s.StopsAt .read (frameReads s.sp) a → exec .rti s = .fault (.unadmittedRead a)) ∧
  (∀ (s : State) (a : Word), s.StopsAt .write (frameWrites s.sp) a →
    exec .swi s = .fault (.unadmittedWrite a) ∧ (s.flag .s = false → exec .stop s = .fault (.unadmittedWrite a))) ∧
  (∀ (s : State) (a : Word), (∀ b ∈ frameWrites s.sp, s.admits .write b = true) →
    s.StopsAt .read [s.cfg.swiVector, s.cfg.swiVector + 1] a → exec .swi s = .fault (.unadmittedRead a)) ∧
  (∀ (s : State) (q : IrqSource) (a : Word), s.popInput.1.reset = false →
    s.chosenIrq s.popInput.1.pending = some q →
    (s.stopped = false → s.StopsAt .write (frameWrites s.sp) a → step s = .fault (.unadmittedWrite a)) ∧
    ((s.stopped = false → ∀ b ∈ frameWrites s.sp, s.admits .write b = true) →
      s.StopsAt .read [q.vector, q.vector + 1] a → step s = .fault (.unadmittedRead a))) ∧
  (∀ (s : State) (a : Word), s.popInput.1.reset = true →
    s.StopsAt .read [s.cfg.resetVector, s.cfg.resetVector + 1] a → step s = .fault (.unadmittedRead a)) ∧
  -- the fetch
  (∀ s : State, s.Quiet → s.admits .fetch s.pc = false → step s = .fault (.unadmittedFetch s.pc)) ∧
  (∀ (s : State) (bytes : List Byte) (i : Instr) (k : Nat) (a : Word), s.Quiet → decode bytes = .ok (i, []) →
    k < bytes.length → s.CodeUpTo bytes k → a = s.pc + BitVec.ofNat 16 k → s.admits .fetch a = false →
    step s = .fault (.unadmittedFetch a)) ∧
  -- nothing else faults
  (∀ (i : Instr) (s : State) (f : Fault), exec i s = .fault f →
    ∃ a, (f = .unadmittedRead a ∧ s.admits .read a = false) ∨ (f = .unadmittedWrite a ∧ s.admits .write a = false))

/-- Device locations (R63; how the model holds them: log 6): a load completes with some value and its flags, a store completes
and no memory of the machine changes. -/
def Obligations.DeviceAccess : Prop :=
  (∀ (s s1 : State) (m : Mem) (ea : Word), s.ea m = .ok (ea, s1) → s.admits .read ea = true → s.isDevice ea = true →
    ∃ v, Completes (.ldaa (.mem m)) s (.a :: adjusts (memAuto m)) [(.n, v.msb), (.z, v == 0), (.v, false)]
      fun t => t.a = v) ∧
  (∀ (s s1 : State) (m : Mem) (ea : Word), s.ea m = .ok (ea, s1) → s.admits .write ea = true → s.isDevice ea = true →
    Completes (.staa m) s (adjusts (memAuto m)) [(.n, s.a.msb), (.z, s.a == 0), (.v, false)] fun _ => True)

/-! ## Flags -/

/-- The boolean forms of the flags of `Add8` and `Sub8` as R242 and R243 print them; and the same forms of the V and C of
`Add16` and `Sub16`, which R244 does not print and which follow from its arithmetic ones. -/
def Obligations.FlagFormulas : Prop :=
  (∀ (a m : Byte) (cin : Bool),
    (add8 a m cin).c = ((a.msb && m.msb) || (m.msb && !(add8 a m cin).r.msb) || (!(add8 a m cin).r.msb && a.msb)) ∧
    (add8 a m cin).v = ((a.msb && m.msb && !(add8 a m cin).r.msb) || (!a.msb && !m.msb && (add8 a m cin).r.msb)) ∧
    add8H a m cin = ((a.getLsbD 3 && m.getLsbD 3) || (m.getLsbD 3 && !(add8 a m cin).r.getLsbD 3) ||
      (!(add8 a m cin).r.getLsbD 3 && a.getLsbD 3))) ∧
  (∀ (a m : Byte) (bin : Bool),
    (sub8 a m bin).c = ((!a.msb && m.msb) || (m.msb && (sub8 a m bin).r.msb) || ((sub8 a m bin).r.msb && !a.msb)) ∧
    (sub8 a m bin).v = ((a.msb && !m.msb && !(sub8 a m bin).r.msb) || (!a.msb && m.msb && (sub8 a m bin).r.msb))) ∧
  (∀ a m : Word,
    (add16 a m).c = ((a.msb && m.msb) || (m.msb && !(add16 a m).r.msb) || (!(add16 a m).r.msb && a.msb)) ∧
    (add16 a m).v = ((a.msb && m.msb && !(add16 a m).r.msb) || (!a.msb && !m.msb && (add16 a m).r.msb)) ∧
    (sub16 a m).c = ((!a.msb && m.msb) || (m.msb && (sub16 a m).r.msb) || ((sub16 a m).r.msb && !a.msb)) ∧
    (sub16 a m).v = ((a.msb && !m.msb && !(sub16 a m).r.msb) || (!a.msb && m.msb && (sub16 a m).r.msb)))

/-- A branch after a compare decides what R372 says it means: BHI, BHS, BLO, BLS the unsigned order of the register and the
operand, BGT, BGE, BLT, BLE the signed one, BEQ and BNE equality; for 8-bit and 16-bit compares. -/
def Obligations.CompareThenBranch : Prop :=
  (∀ (s s1 t : State) (op : Src8) (m : Byte) (rr : Byte), s.opnd8 op = .ok (m, s1) → exec (.cmpa op) s = .next t →
    ∀ p ∈ ([(.bhi, decide (m.toNat < s.a.toNat)), (.bhs, decide (m.toNat ≤ s.a.toNat)),
        (.blo, decide (s.a.toNat < m.toNat)), (.bls, decide (s.a.toNat ≤ m.toNat)),
        (.bgt, decide (m.toInt < s.a.toInt)), (.bge, decide (m.toInt ≤ s.a.toInt)),
        (.blt, decide (s.a.toInt < m.toInt)), (.ble, decide (s.a.toInt ≤ m.toInt)),
        (.beq, decide (s.a = m)), (.bne, decide (s.a ≠ m))] : List ((Byte → Instr) × Bool)),
      ∃ u, exec (p.1 rr) t = .next u ∧ u.pc = if p.2 then t.pc + rr.signExtend 16 else t.pc) ∧
  (∀ (s s1 t : State) (op : Src16) (m : Word) (rr : Byte), s.opnd16 op = .ok (m, s1) → exec (.cpd op) s = .next t →
    ∀ p ∈ ([(.bhi, decide (m.toNat < s.d.toNat)), (.bhs, decide (m.toNat ≤ s.d.toNat)),
        (.blo, decide (s.d.toNat < m.toNat)), (.bls, decide (s.d.toNat ≤ m.toNat)),
        (.bgt, decide (m.toInt < s.d.toInt)), (.bge, decide (m.toInt ≤ s.d.toInt)),
        (.blt, decide (s.d.toInt < m.toInt)), (.ble, decide (s.d.toInt ≤ m.toInt)),
        (.beq, decide (s.d = m)), (.bne, decide (s.d ≠ m))] : List ((Byte → Instr) × Bool)),
      ∃ u, exec (p.1 rr) t = .next u ∧ u.pc = if p.2 then t.pc + rr.signExtend 16 else t.pc)

/-! ## Rules of the whole machine -/

/-- Every step from a well-kept state leaves a well-kept state and the parameters as they were: memory stays in its one
canonical form, whatever the step is (instruction, interrupt, reset). -/
def Obligations.StepKeepsInvariant : Prop :=
  ∀ s t : State, s.Inv → step s = .next t → t.Inv ∧ t.cfg = s.cfg

/-- The reset state is well-kept. -/
def Obligations.ResetInvariant : Prop := State.reset.Inv

/-- No instruction sets X: software can clear the bit and cannot set it (R44, R47). -/
def Obligations.NoInstructionSetsX : Prop :=
  ∀ (i : Instr) (s t : State), exec i s = .next t → t.flag .x = true → s.flag .x = true

/-- Only STOP with S = 0 enters the stopped state (R50, R424). -/
def Obligations.OnlyStopStops : Prop :=
  ∀ (i : Instr) (s t : State), exec i s = .next t → s.stopped = false →
    (t.stopped = true ↔ i = .stop ∧ s.flag .s = false)

/-- Only the five 8-bit additions and the instructions that write the whole CCR change H (R43, D33). -/
def Obligations.HalfCarryOnlyByAdditions : Prop :=
  ∀ (i : Instr) (s t : State), exec i s = .next t → mayChangeH i = false → t.flag .h = s.flag .h

/-- Where all memory is plain, every instruction, in every form but those of R147 and R152, completes. -/
def Obligations.EveryFormCompletes : Prop :=
  ∀ (i : Instr) (s : State), s.AllPlain → autoOverlap i = false → pcTrailing i = false → ∃ t, exec i s = .next t

/-- The forms the spec gives no meaning to stop by name, in every state: PC as index base before trailing bytes (R147, D11),
and the overlaps of an auto-adjusted base (R152, D15; its scope for the moves: log 19). -/
def Obligations.FormsWithoutMeaning : Prop :=
  ∀ (i : Instr) (s : State),
    (pcTrailing i = true → exec i s = .refused .pcRelativeTrailing) ∧
    (pcTrailing i = false → autoOverlap i = true → exec i s = .refused .autoIndexOverlap)

/-- An alias does exactly what the core instruction does whose words it has (R123, R130). -/
def Obligations.AliasesAreCore : Prop := ∀ (i : Instr) (s : State), exec i s = exec i.core s

/-! ## Reset, interrupts, exceptions -/

/-- The state after reset (R52, R480, R481). S = X = I = 1 is the family's (log 2), the zeros of A, B, X, Y, SP, H, N, Z, V, C,
of memory and hence of PC are the model's choice (logs 1, 3, 4); running, with an empty queue. -/
def Obligations.ResetState : Prop :=
  State.reset.flag .s = true ∧ State.reset.flag .x = true ∧ State.reset.flag .i = true ∧
  State.reset.stopped = false ∧ State.reset.stale = [] ∧ State.reset.inputs = [] ∧
  State.reset.a = 0 ∧ State.reset.b = 0 ∧ State.reset.x = 0 ∧ State.reset.y = 0 ∧ State.reset.sp = 0 ∧
  State.reset.ccr = 0xD0 ∧ (∀ a, State.reset.byteAt a = 0) ∧
  State.reset.pc = State.reset.wordAt State.reset.cfg.resetVector

/-- A reset request at a boundary overrides everything (R450, R480, R481): nothing is pushed and memory keeps its contents, the
registers take `ResetState`, the CPU runs, and PC is the word at `RESET_VECTOR`. -/
def Obligations.ResetEvent : Prop :=
  ∀ (s : State) (inp : Input) (rest : List Input), s.inputs = inp :: rest → inp.reset = true →
    s.PlainFrom .read s.cfg.resetVector 2 →
    ∃ t, step s = .next t ∧ t.a = s.cfg.resetRegs.a ∧ t.b = s.cfg.resetRegs.b ∧ t.x = s.cfg.resetRegs.x ∧
      t.y = s.cfg.resetRegs.y ∧ t.sp = s.cfg.resetRegs.sp ∧ t.ccr = s.cfg.resetRegs.ccr ∧
      t.pc = s.wordAt s.cfg.resetVector ∧ t.stopped = false ∧ s.SameMem t ∧ t.inputs = rest ∧ t.cfg = s.cfg

/-- Which request is entered at a boundary: the first of `IrqSources` that is pending and enabled, an I-class source when I is
clear, an X-class source when X is clear; none if there is none (R445, R446, R447, R450). -/
def Obligations.InterruptChoice : Prop :=
  ∀ (s : State) (pending : List Nat),
    (∀ q, s.chosenIrq pending = some q ↔ ∃ before after, s.cfg.irqSources = before ++ q :: after ∧
      (q.id ∈ pending ∧ (q.cls = .i → s.flag .i = false) ∧ (q.cls = .x → s.flag .x = false)) ∧
      ∀ r ∈ before, ¬(r.id ∈ pending ∧ (r.cls = .i → s.flag .i = false) ∧ (r.cls = .x → s.flag .x = false))) ∧
    (s.flag .i = true → s.flag .x = true → s.chosenIrq pending = none)

/-- Hardware interrupt entry on a running CPU (R448, R453): the nine-byte frame with the address of the instruction not yet
executed, I set, X set for an X-class source, PC the word at the source's vector; nothing else changes. -/
def Obligations.InterruptEntry : Prop :=
  ∀ (s : State) (inp : Input) (rest : List Input) (q : IrqSource), s.inputs = inp :: rest → inp.reset = false →
    s.chosenIrq inp.pending = some q → s.stopped = false → Memory.wf s.mem →
    s.PlainFrom .write (s.sp - 9) 9 → s.PlainFrom .read q.vector 2 →
    ∃ t, step s = .next t ∧ t.FrameAt (s.sp - 9) s ∧ s.SameMemBut t (s.sp - 9) 9 ∧
      (∀ r, r ≠ .sp → t.reg r = s.reg r) ∧ t.sp = s.sp - 9 ∧ t.pc = t.wordAt q.vector ∧
      t.flag .i = true ∧ t.flag .x = (q.cls == .x || s.flag .x) ∧ (∀ f, f ≠ .i → f ≠ .x → t.flag f = s.flag f) ∧
      t.stopped = false ∧ t.inputs = rest ∧ t.cfg = s.cfg

/-- The stopped state (R449, R460): an enabled request ends it without a second frame, no register but PC and no memory
changing; without one nothing changes and no instruction runs. That a request which is pending and masked also changes
nothing is the model's choice, after D20: U16 would have a model that reaches the "(continue)" case refuse (log 24). -/
def Obligations.WakeAndWait : Prop :=
  (∀ (s : State) (inp : Input) (rest : List Input) (q : IrqSource), s.inputs = inp :: rest → inp.reset = false →
    s.chosenIrq inp.pending = some q → s.stopped = true → s.PlainFrom .read q.vector 2 →
    ∃ t, step s = .next t ∧ t.stopped = false ∧ (∀ r, t.reg r = s.reg r) ∧ s.SameMem t ∧ t.pc = s.wordAt q.vector ∧
      t.flag .i = true ∧ t.flag .x = (q.cls == .x || s.flag .x) ∧ (∀ f, f ≠ .i → f ≠ .x → t.flag f = s.flag f) ∧
      t.inputs = rest ∧ t.cfg = s.cfg) ∧
  (∀ s : State, s.stopped = true → s.popInput.1.reset = false → s.chosenIrq s.popInput.1.pending = none →
    step s = .next { s with inputs := s.inputs.tail })

/-- SWI (R441, R421): the byte `3F`; whatever I and X hold, the nine-byte frame is pushed with the address after the SWI and the CCR from
before, I is set and no other bit of CCR changes, and PC is the word at `SWI_VECTOR`, read after the frame is written. -/
def Obligations.SwiEntry : Prop :=
  (∀ rest, decode (0x3F :: rest) = .ok (.swi, rest)) ∧
  ∀ s : State, Memory.wf s.mem → s.stopped = false → s.PlainFrom .write (s.sp - 9) 9 →
    s.PlainFrom .read s.cfg.swiVector 2 →
    ∃ t, exec .swi s = .next t ∧ s.Effect t [.sp] [(.i, true)] [] ∧ t.sp = s.sp - 9 ∧ t.FrameAt (s.sp - 9) s ∧
      s.SameMemBut t (s.sp - 9) 9 ∧ t.pc = t.wordAt s.cfg.swiVector

/-- RTI (R422): CCR through `LoadCCR`, B, A, X, Y and PC from the nine bytes at SP, SP past them; no memory changes. -/
def Obligations.RtiReturn : Prop :=
  ∀ s : State, s.PlainFrom .read s.sp 9 →
    ∃ t, exec .rti s = .next t ∧ s.Effect t [.a, .b, .x, .y, .sp] (loadedFlags s (s.byteAt s.sp)) [] ∧
      t.b = s.byteAt (s.sp + 1) ∧ t.a = s.byteAt (s.sp + 2) ∧ t.x = s.wordAt (s.sp + 3) ∧ t.y = s.wordAt (s.sp + 5) ∧
      t.pc = s.wordAt (s.sp + 7) ∧ t.sp = s.sp + 9 ∧ s.SameMem t

/-- SWI and RTI are inverse (R423, R451): whatever a handler does to the registers, if it gives RTI the SP it was entered
with and the nine bytes of the frame, RTI restores A, B, X, Y, SP, PC (the address after the SWI) and every bit of CCR but
X, which stays clear if the handler cleared it. -/
def Obligations.SwiRtiRoundTrip : Prop :=
  ∀ s t h : State, Memory.wf s.mem → s.PlainFrom .write (s.sp - 9) 9 → s.PlainFrom .read (s.sp - 9) 9 →
    s.PlainFrom .read s.cfg.swiVector 2 → exec .swi s = .next t →
    h.cfg = t.cfg → h.sp = t.sp →
    (∀ k, k < 9 → h.byteAt (t.sp + BitVec.ofNat 16 k) = t.byteAt (t.sp + BitVec.ofNat 16 k)) →
    ∃ u, exec .rti h = .next u ∧ (∀ r, u.reg r = s.reg r) ∧ u.pc = s.pc ∧ (∀ f, f ≠ .x → u.flag f = s.flag f) ∧
      u.flag .x = (h.flag .x && s.flag .x) ∧ h.SameMem u

/-- STOP (R424): with S = 1 it does nothing; with S = 0 it pushes the nine-byte frame with RTN = `npc` and stops the CPU, and
neither CCR nor any register but SP changes. -/
def Obligations.StopInstruction : Prop :=
  (∀ s : State, s.flag .s = true → exec .stop s = .next s) ∧
  (∀ s : State, s.flag .s = false → Memory.wf s.mem → s.PlainFrom .write (s.sp - 9) 9 →
    ∃ t, exec .stop s = .next t ∧ t.stopped = true ∧ t.sp = s.sp - 9 ∧ t.FrameAt (s.sp - 9) s ∧
      s.SameMemBut t (s.sp - 9) 9 ∧ t.pc = s.pc ∧ t.ccr = s.ccr ∧ (∀ r, r ≠ .sp → t.reg r = s.reg r) ∧
      t.inputs = s.inputs ∧ t.cfg = s.cfg)

/-! ## Loads, stores, moves, transfers -/

/-- LDAA and LDAB: their eight forms; the register takes the operand; N and Z of it, V = 0 (R172, R173). -/
def Obligations.LoadByte : Prop :=
  (EightForms8 0x86 .ldaa ∧ EightForms8 0xC6 .ldab) ∧
  ∀ p ∈ ([(.a, .ldaa), (.b, .ldab)] : List (Reg8 × (Src8 → Instr))),
    ∀ (op : Src8) (s s1 : State) (v : Byte), s.opnd8 op = .ok (v, s1) →
      Completes (p.2 op) s (reg8Names p.1 ++ adjusts (src8Auto op)) [(.n, v.msb), (.z, v == 0), (.v, false)] fun t =>
        t.get8 p.1 = v ∧ ∀ q ∈ adjusts (src8Auto op), t.reg q = s1.reg q

/-- LDD, LDX, LDY, LDS: the register takes the operand; N and Z of it, V = 0 (R171, R174 to R177). -/
def Obligations.LoadWord : Prop :=
  ∀ p ∈ ([(.d, .ldd), (.x, .ldx), (.y, .ldy), (.sp, .lds)] : List (Reg16 × (Src16 → Instr))),
    ∀ (op : Src16) (s s1 : State) (v : Word), s.opnd16 op = .ok (v, s1) →
      overlaps (src16Auto op) (reg16Auto p.1) = false →
      Completes (p.2 op) s (reg16Names p.1 ++ adjusts (src16Auto op)) [(.n, v.msb), (.z, v == 0), (.v, false)] fun t =>
        t.get16 p.1 = v ∧ ∀ q ∈ adjusts (src16Auto op), t.reg q = s1.reg q

/-- STAA and STAB, their seven forms; to plain memory, the byte at the effective address is the register; N and Z of it,
V = 0 (R179, R180). -/
def Obligations.StoreByte : Prop :=
  (StoreForms 0x5A .staa ∧ StoreForms 0x5B .stab) ∧
  ∀ p ∈ ([(.a, .staa), (.b, .stab)] : List (Reg8 × (Mem → Instr))),
    ∀ (m : Mem) (s s1 : State) (ea : Word), Memory.wf s.mem → s.ea m = .ok (ea, s1) → s.PlainAt .write ea →
      CompletesStore (p.2 m) s (adjusts (memAuto m)) [(.n, (s.get8 p.1).msb), (.z, s.get8 p.1 == 0), (.v, false)] ea 1
        fun t => t.byteAt ea = s.get8 p.1 ∧ ∀ q ∈ adjusts (memAuto m), t.reg q = s1.reg q

/-- STD, STX, STY, STS to plain memory: the word at the effective address is the register, high byte first; N and Z of it,
V = 0 (R64, R178, R181 to R184). -/
def Obligations.StoreWord : Prop :=
  ∀ p ∈ ([(.d, .std), (.x, .stx), (.y, .sty), (.sp, .sts)] : List (Reg16 × (Mem → Instr))),
    ∀ (m : Mem) (s s1 : State) (ea : Word), Memory.wf s.mem → s.ea m = .ok (ea, s1) → s.PlainFrom .write ea 2 →
      overlaps (memAuto m) (reg16Auto p.1) = false →
      CompletesStore (p.2 m) s (adjusts (memAuto m)) [(.n, (s.get16 p.1).msb), (.z, s.get16 p.1 == 0), (.v, false)] ea 2
        fun t => t.wordAt ea = s.get16 p.1 ∧ ∀ q ∈ adjusts (memAuto m), t.reg q = s1.reg q

/-- LEAX, LEAY, LEAS put the effective address into the register, ABX, ABY, DES, INS are their aliases; no flag changes (R185 to
R192). -/
def Obligations.LoadAddress : Prop :=
  (∀ p ∈ ([(.x, .leax), (.y, .leay), (.sp, .leas)] : List (Reg16 × (Idx → Instr))),
    ∀ (i : Idx) (s s1 : State) (ea : Word), s.ea (.idx i) = .ok (ea, s1) → overlaps (idxAuto i) (reg16Auto p.1) = false →
      Completes (p.2 i) s (reg16Names p.1 ++ adjusts (idxAuto i)) [] fun t =>
        t.get16 p.1 = ea ∧ ∀ q ∈ adjusts (idxAuto i), t.reg q = s1.reg q) ∧
  (∀ s, Completes .abx s [.x] [] fun t => t.x = s.x + BitVec.ofNat 16 s.b.toNat) ∧
  (∀ s, Completes .aby s [.y] [] fun t => t.y = s.y + BitVec.ofNat 16 s.b.toNat) ∧
  (∀ s, Completes .des s [.sp] [] fun t => t.sp = s.sp - 1) ∧
  (∀ s, Completes .ins s [.sp] [] fun t => t.sp = s.sp + 1)

/-- MOVB and MOVW to plain memory: the source's value stands at the destination's effective address, computed after the source
was read; no flag changes (R154, R193 to R195, D24). -/
def Obligations.MoveData : Prop :=
  (∀ (src : Src8) (dst : Mem) (s s1 s2 : State) (v : Byte) (ea : Word), Memory.wf s.mem →
    s.opnd8 src = .ok (v, s1) → s1.ea dst = .ok (ea, s2) → s.PlainAt .write ea →
    pcTrailing (.movb src dst) = false → autoOverlap (.movb src dst) = false →
    CompletesStore (.movb src dst) s (adjusts (src8Auto src) ++ adjusts (memAuto dst)) [] ea 1 fun t =>
      t.byteAt ea = v ∧ ∀ q ∈ adjusts (src8Auto src) ++ adjusts (memAuto dst), t.reg q = s2.reg q) ∧
  (∀ (src : Src16) (dst : Mem) (s s1 s2 : State) (v : Word) (ea : Word), Memory.wf s.mem →
    s.opnd16 src = .ok (v, s1) → s1.ea dst = .ok (ea, s2) → s.PlainFrom .write ea 2 →
    pcTrailing (.movw src dst) = false → autoOverlap (.movw src dst) = false →
    CompletesStore (.movw src dst) s (adjusts (src16Auto src) ++ adjusts (memAuto dst)) [] ea 2 fun t =>
      t.wordAt ea = v ∧ ∀ q ∈ adjusts (src16Auto src) ++ adjusts (memAuto dst), t.reg q = s2.reg q)

/-- The pushes, one byte each; onto plain memory, SP goes down first, the register stands at the new SP, high byte first; no
flag changes (R210 to R215). -/
def Obligations.PushRegister : Prop :=
  (∀ p ∈ ([(0x36, .psha), (0x37, .pshb), (0x39, .pshc), (0x3B, .pshd), (0x34, .pshx), (0x35, .pshy)] : List (Byte × Instr)),
    ∀ rest, decode (p.1 :: rest) = .ok (p.2, rest)) ∧
  (∀ p ∈ ([(.psha, State.a), (.pshb, State.b), (.pshc, State.ccr)] : List (Instr × (State → Byte))),
    ∀ s : State, Memory.wf s.mem → s.PlainAt .write (s.sp - 1) →
      CompletesStore p.1 s [.sp] [] (s.sp - 1) 1 fun t => t.sp = s.sp - 1 ∧ t.byteAt (s.sp - 1) = p.2 s) ∧
  (∀ p ∈ ([(.pshd, State.d), (.pshx, State.x), (.pshy, State.y)] : List (Instr × (State → Word))),
    ∀ s : State, Memory.wf s.mem → s.PlainFrom .write (s.sp - 2) 2 →
      CompletesStore p.1 s [.sp] [] (s.sp - 2) 2 fun t => t.sp = s.sp - 2 ∧ t.wordAt (s.sp - 2) = p.2 s)

/-- The pulls, one byte each: the register takes what stands at SP, then SP goes up; only PULC changes flags, through `LoadCCR`
(R47; R216 to R221). -/
def Obligations.PullRegister : Prop :=
  (∀ p ∈ ([(0x32, .pula), (0x33, .pulb), (0x38, .pulc), (0x3A, .puld), (0x30, .pulx), (0x31, .puly)] : List (Byte × Instr)),
    ∀ rest, decode (p.1 :: rest) = .ok (p.2, rest)) ∧
  (∀ p ∈ ([(.a, .pula), (.b, .pulb)] : List (Reg8 × Instr)), ∀ (s s1 : State) (v : Byte), s.read8 s.sp = .ok (v, s1) →
    Completes p.2 s (.sp :: reg8Names p.1) [] fun t => t.get8 p.1 = v ∧ t.sp = s.sp + 1) ∧
  (∀ p ∈ ([(.d, .puld), (.x, .pulx), (.y, .puly)] : List (Reg16 × Instr)), ∀ (s s1 : State) (v : Word),
    s.read16 s.sp = .ok (v, s1) →
    Completes p.2 s (.sp :: reg16Names p.1) [] fun t => t.get16 p.1 = v ∧ t.sp = s.sp + 2) ∧
  (∀ (s s1 : State) (v : Byte), s.read8 s.sp = .ok (v, s1) →
    Completes .pulc s [.sp] (loadedFlags s v) fun t => t.sp = s.sp + 1)

/-- TFR by the sizes of its registers (R223), its aliases (R225 to R230), and TAB and TBA, which set flags (R233, R234). -/
def Obligations.TransferRegister : Prop :=
  (∀ (r1 r2 : Reg) (s : State), r2 ≠ .ccr → regWide r1 = regWide r2 →
    Completes (.tfr r1 r2) s (regNames r2) [] fun t => t.regWord r2 = s.regWord r1) ∧
  (∀ (r1 r2 : Reg) (s : State), r2 ≠ .ccr → regWide r1 = true → regWide r2 = false →
    Completes (.tfr r1 r2) s (regNames r2) [] fun t => t.regLow r2 = loByte (s.regWord r1)) ∧
  (∀ (r1 r2 : Reg) (s : State), regWide r1 = false → regWide r2 = true →
    Completes (.tfr r1 r2) s (regNames r2) [] fun t =>
      (s.cfg.tfrWiden = .sext → t.regWord r2 = (s.regLow r1).signExtend 16) ∧
      (s.cfg.tfrWiden = .zext → t.regWord r2 = (s.regLow r1).setWidth 16)) ∧
  (∀ (r : Reg) (s : State), Completes (.tfr r .ccr) s [] (loadedFlags s (s.regLow r)) fun _ => True) ∧
  (∀ s : State, Completes .tap s [] (loadedFlags s s.a) fun _ => True) ∧
  (∀ s : State, Completes .tpa s [.a] [] fun t => t.a = s.ccr) ∧
  (∀ s : State, Completes .tsx s [.x] [] fun t => t.x = s.sp) ∧
  (∀ s : State, Completes .tsy s [.y] [] fun t => t.y = s.sp) ∧
  (∀ s : State, Completes .txs s [.sp] [] fun t => t.sp = s.x) ∧
  (∀ s : State, Completes .tys s [.sp] [] fun t => t.sp = s.y) ∧
  (∀ s : State, Completes .tab s [.b] [(.n, s.a.msb), (.z, s.a == 0), (.v, false)] fun t => t.b = s.a) ∧
  (∀ s : State, Completes .tba s [.a] [(.n, s.b.msb), (.z, s.b == 0), (.v, false)] fun t => t.a = s.b)

/-- EXG by the sizes of its registers (R224) and its aliases (R231, R232). What the spec leaves open is left open: the 8-bit
register after the first mixed case, the high byte of the 16-bit one after the second, D where the pair overlaps (D13,
log 13). Into CCR everything goes through `LoadCCR` (R222). -/
def Obligations.ExchangeRegister : Prop :=
  (∀ (r1 r2 : Reg) (s : State), r1 ≠ .ccr → r2 ≠ .ccr → regWide r1 = regWide r2 →
    Completes (.exg r1 r2) s (regNames r1 ++ regNames r2) [] fun t =>
      t.regWord r2 = s.regWord r1 ∧ t.regWord r1 = s.regWord r2) ∧
  (∀ (r : Reg) (s : State), r ≠ .ccr → regWide r = false →
    (Completes (.exg r .ccr) s (regNames r) (loadedFlags s (s.regLow r)) fun t => t.regLow r = s.ccr) ∧
    (Completes (.exg .ccr r) s (regNames r) (loadedFlags s (s.regLow r)) fun t => t.regLow r = s.ccr)) ∧
  (∀ s : State, Completes (.exg .ccr .ccr) s [] [] fun _ => True) ∧
  (∀ (r1 r2 : Reg) (s : State), r1 ≠ .ccr → regWide r1 = false → regWide r2 = true → exchangeOverlap r1 r2 = false →
    Completes (.exg r1 r2) s (regNames r1 ++ regNames r2) [] fun t => t.regWord r2 = (s.regLow r1).setWidth 16) ∧
  (∀ (r2 : Reg) (s : State), regWide r2 = true →
    ∃ t, exec (.exg .ccr r2) s = .next t ∧ s.Effect t (regNames r2) [] [.s, .x, .h, .i, .n, .z, .v, .c] ∧ s.SameMem t ∧
      t.pc = s.pc ∧ t.regWord r2 = s.ccr.setWidth 16 ∧ (t.flag .x = true → s.flag .x = true)) ∧
  (∀ (r1 r2 : Reg) (s : State), r2 ≠ .ccr → regWide r1 = true → regWide r2 = false → exchangeOverlap r1 r2 = false →
    Completes (.exg r1 r2) s (regNames r1 ++ regNames r2) [] fun t =>
      t.regLow r1 = s.regLow r2 ∧ t.regLow r2 = loByte (s.regWord r1)) ∧
  (∀ (r1 : Reg) (s : State), regWide r1 = true →
    Completes (.exg r1 .ccr) s (regNames r1) (loadedFlags s (loByte (s.regWord r1))) fun t => t.regLow r1 = s.ccr) ∧
  (∀ (r1 r2 : Reg) (s : State), exchangeOverlap r1 r2 = true → Completes (.exg r1 r2) s [.a, .b] [] fun _ => True) ∧
  (∀ s : State, Completes .xgdx s [.a, .b, .x] [] fun t => t.d = s.x ∧ t.x = s.d) ∧
  (∀ s : State, Completes .xgdy s [.a, .b, .y] [] fun t => t.d = s.y ∧ t.y = s.d)

/-! ## Arithmetic -/

/-- ADDA, ADDB, ADCA, ADCB, ABA and ADDD: the sum modulo 2^8 or 2^16, N, Z, V and C of it; H for the 8-bit sums only (R242,
R244, R246 to R251). -/
def Obligations.AddInstructions : Prop :=
  (∀ p ∈ ([(.a, .adda, false), (.b, .addb, false), (.a, .adca, true), (.b, .adcb, true)] :
      List (Reg8 × (Src8 → Instr) × Bool)),
    ∀ (op : Src8) (s s1 : State) (m : Byte), s.opnd8 op = .ok (m, s1) →
      ∀ (x : Byte) (k : Nat) (r : Byte), x = s.get8 p.1 → k = (if p.2.2 && s.flag .c then 1 else 0) →
        r = x + m + BitVec.ofNat 8 k →
        Completes (p.2.1 op) s (reg8Names p.1 ++ adjusts (src8Auto op))
          [(.h, decide (15 < x.toNat % 16 + m.toNat % 16 + k)), (.n, r.msb), (.z, r == 0),
           (.v, x.msb == m.msb && r.msb != x.msb), (.c, decide (255 < x.toNat + m.toNat + k))]
          fun t => t.get8 p.1 = r ∧ ∀ q ∈ adjusts (src8Auto op), t.reg q = s1.reg q) ∧
  (∀ (s : State) (r : Byte), r = s.a + s.b →
    Completes .aba s [.a]
      [(.h, decide (15 < s.a.toNat % 16 + s.b.toNat % 16)), (.n, r.msb), (.z, r == 0),
       (.v, s.a.msb == s.b.msb && r.msb != s.a.msb), (.c, decide (255 < s.a.toNat + s.b.toNat))]
      fun t => t.a = r) ∧
  (∀ (op : Src16) (s s1 : State) (m r : Word), s.opnd16 op = .ok (m, s1) → r = s.d + m →
    Completes (.addd op) s ([.a, .b] ++ adjusts (src16Auto op))
      [(.n, r.msb), (.z, r == 0), (.v, s.d.msb == m.msb && r.msb != s.d.msb),
       (.c, decide (65535 < s.d.toNat + m.toNat))]
      fun t => t.d = r ∧ ∀ q ∈ adjusts (src16Auto op), t.reg q = s1.reg q)

/-- SUBA, SUBB, SBCA, SBCB, SBA and SUBD: the difference modulo 2^8 or 2^16, N, Z and V of it, C the borrow; H does not change
(R243, R244, R252 to R257). -/
def Obligations.SubtractInstructions : Prop :=
  (∀ p ∈ ([(.a, .suba, false), (.b, .subb, false), (.a, .sbca, true), (.b, .sbcb, true)] :
      List (Reg8 × (Src8 → Instr) × Bool)),
    ∀ (op : Src8) (s s1 : State) (m : Byte), s.opnd8 op = .ok (m, s1) →
      ∀ (x : Byte) (k : Nat) (r : Byte), x = s.get8 p.1 → k = (if p.2.2 && s.flag .c then 1 else 0) →
        r = x - m - BitVec.ofNat 8 k →
        Completes (p.2.1 op) s (reg8Names p.1 ++ adjusts (src8Auto op))
          [(.n, r.msb), (.z, r == 0), (.v, x.msb != m.msb && r.msb != x.msb), (.c, decide (x.toNat < m.toNat + k))]
          fun t => t.get8 p.1 = r ∧ ∀ q ∈ adjusts (src8Auto op), t.reg q = s1.reg q) ∧
  (∀ (s : State) (r : Byte), r = s.a - s.b →
    Completes .sba s [.a]
      [(.n, r.msb), (.z, r == 0), (.v, s.a.msb != s.b.msb && r.msb != s.a.msb), (.c, decide (s.a.toNat < s.b.toNat))]
      fun t => t.a = r) ∧
  (∀ (op : Src16) (s s1 : State) (m r : Word), s.opnd16 op = .ok (m, s1) → r = s.d - m →
    Completes (.subd op) s ([.a, .b] ++ adjusts (src16Auto op))
      [(.n, r.msb), (.z, r == 0), (.v, s.d.msb != m.msb && r.msb != s.d.msb), (.c, decide (s.d.toNat < m.toNat))]
      fun t => t.d = r ∧ ∀ q ∈ adjusts (src16Auto op), t.reg q = s1.reg q)

/-- CMPA, CMPB, CBA, CPD, CPX, CPY, CPS: the flags of the difference and nothing else (R258 to R264). -/
def Obligations.CompareInstructions : Prop :=
  (∀ p ∈ ([(.a, .cmpa), (.b, .cmpb)] : List (Reg8 × (Src8 → Instr))),
    ∀ (op : Src8) (s s1 : State) (m x r : Byte), s.opnd8 op = .ok (m, s1) → x = s.get8 p.1 → r = x - m →
      Completes (p.2 op) s (adjusts (src8Auto op))
        [(.n, r.msb), (.z, r == 0), (.v, x.msb != m.msb && r.msb != x.msb), (.c, decide (x.toNat < m.toNat))]
        fun t => ∀ q ∈ adjusts (src8Auto op), t.reg q = s1.reg q) ∧
  (∀ (s : State) (r : Byte), r = s.a - s.b →
    Completes .cba s []
      [(.n, r.msb), (.z, r == 0), (.v, s.a.msb != s.b.msb && r.msb != s.a.msb), (.c, decide (s.a.toNat < s.b.toNat))]
      fun _ => True) ∧
  (∀ p ∈ ([(.d, .cpd), (.x, .cpx), (.y, .cpy), (.sp, .cps)] : List (Reg16 × (Src16 → Instr))),
    ∀ (op : Src16) (s s1 : State) (m x r : Word), s.opnd16 op = .ok (m, s1) →
      overlaps (src16Auto op) (reg16Auto p.1) = false → x = s.get16 p.1 → r = x - m →
      Completes (p.2 op) s (adjusts (src16Auto op))
        [(.n, r.msb), (.z, r == 0), (.v, x.msb != m.msb && r.msb != x.msb), (.c, decide (x.toNat < m.toNat))]
        fun t => ∀ q ∈ adjusts (src16Auto op), t.reg q = s1.reg q)

/-- DAA (R265): after an 8-bit addition of two packed decimal bytes, A and C are the decimal sum; N and Z of A; nothing is
said of V (R46, D9). -/
def Obligations.DecimalAdjust : Prop :=
  (∀ s : State, ∃ t, exec .daa s = .next t ∧
    (∃ cf : Byte, t.a = s.a + cf ∧
      cf = (if 9 < s.a.toNat % 16 ∨ s.flag .h = true then 0x06 else 0) +
        (if 0x99 < s.a.toNat ∨ s.flag .c = true then 0x60 else 0)) ∧
    s.Effect t [.a] [(.n, t.a.msb), (.z, t.a == 0), (.c, decide (0x99 < s.a.toNat) || s.flag .c)] [.v] ∧
    s.SameMem t ∧ t.pc = s.pc) ∧
  (∀ (s t u : State) (m : Byte), s.a.toNat / 16 < 10 → s.a.toNat % 16 < 10 → m.toNat / 16 < 10 → m.toNat % 16 < 10 →
    exec (.adda (.imm m)) s = .next t → exec .daa t = .next u →
    ((u.a.toNat / 16) * 10 + u.a.toNat % 16 + if u.flag .c then 100 else 0) =
      (s.a.toNat / 16) * 10 + s.a.toNat % 16 + ((m.toNat / 16) * 10 + m.toNat % 16))

/-- DEX, DEY, INX, INY: encodings `09`, `03`, `08`, `02`; the register goes down or up by one modulo 2^16; Z says whether it
is zero then and no other flag changes (R269, R270, R274, R275). -/
def Obligations.IndexCount : Prop :=
  (∀ rest, decode (0x09 :: rest) = .ok (.dex, rest) ∧ decode (0x03 :: rest) = .ok (.dey, rest) ∧
    decode (0x08 :: rest) = .ok (.inx, rest) ∧ decode (0x02 :: rest) = .ok (.iny, rest)) ∧
  (∀ (s : State) (r : Word), (r.toNat : Int) = ((s.x.toNat : Int) - 1) % 65536 →
    Completes .dex s [.x] [(.z, r == 0)] fun t => t.x = r) ∧
  (∀ (s : State) (r : Word), (r.toNat : Int) = ((s.y.toNat : Int) - 1) % 65536 →
    Completes .dey s [.y] [(.z, r == 0)] fun t => t.y = r) ∧
  (∀ (s : State) (r : Word), r.toNat = (s.x.toNat + 1) % 65536 → Completes .inx s [.x] [(.z, r == 0)] fun t => t.x = r) ∧
  (∀ (s : State) (r : Word), r.toNat = (s.y.toNat + 1) % 65536 → Completes .iny s [.y] [(.z, r == 0)] fun t => t.y = r)

/-- INC and DEC, their forms; in memory and on A and B: N, Z and V, and C does not change (R266 to R268, R271 to R273). -/
def Obligations.IncrementDecrement : Prop :=
  (OneOperandForms 2 .inc .inca .incb ∧ OneOperandForms 3 .dec .deca .decb) ∧
  OneOperand .inc .inca .incb (fun _ v => v + 1)
    (fun _ v => [(.n, (v + 1).msb), (.z, v + 1 == 0), (.v, v == 0x7F)]) ∧
  OneOperand .dec .deca .decb (fun _ v => v - 1)
    (fun _ v => [(.n, (v - 1).msb), (.z, v - 1 == 0), (.v, v == 0x80)])

/-- NEG and COM in memory and on A and B; CLR, which reads nothing; TST, which writes nothing (R276 to R284, R309 to R311). -/
def Obligations.NegateComplementClearTest : Prop :=
  OneOperand .neg .nega .negb (fun _ v => -v)
    (fun _ v => [(.n, (-v).msb), (.z, v == 0), (.v, v == 0x80), (.c, v != 0)]) ∧
  OneOperand .com .coma .comb (fun _ v => 0xFF - v)
    (fun _ v => [(.n, !v.msb), (.z, v == 0xFF), (.v, false), (.c, true)]) ∧
  (∀ m s ea s1, Memory.wf s.mem → s.ea m = .ok (ea, s1) → s.PlainAt .write ea →
    CompletesStore (.clr m) s (adjusts (memAuto m)) [(.n, false), (.z, true), (.v, false), (.c, false)] ea 1 fun t =>
      t.byteAt ea = 0 ∧ ∀ q ∈ adjusts (memAuto m), t.reg q = s1.reg q) ∧
  (∀ s, Completes .clra s [.a] [(.n, false), (.z, true), (.v, false), (.c, false)] fun t => t.a = 0) ∧
  (∀ s, Completes .clrb s [.b] [(.n, false), (.z, true), (.v, false), (.c, false)] fun t => t.b = 0) ∧
  (∀ m s ea s1, s.ea m = .ok (ea, s1) → s.PlainAt .read ea →
    Completes (.tst m) s (adjusts (memAuto m))
      [(.n, (s.byteAt ea).msb), (.z, s.byteAt ea == 0), (.v, false), (.c, false)] fun t =>
      ∀ q ∈ adjusts (memAuto m), t.reg q = s1.reg q) ∧
  (∀ s, Completes .tsta s [] [(.n, s.a.msb), (.z, s.a == 0), (.v, false), (.c, false)] fun _ => True) ∧
  (∀ s, Completes .tstb s [] [(.n, s.b.msb), (.z, s.b == 0), (.v, false), (.c, false)] fun _ => True)

/-- MUL, IDIV and FDIV (R285 to R287): the product; quotient and remainder; the fraction. Where the divisor is 0 or the
fraction overflows the quotient is $FFFF and nothing is said of the remainder in D (D21, log 15). -/
def Obligations.MultiplyDivide : Prop :=
  (∀ s : State, Completes .mul s [.a, .b] [(.c, (s.a.toNat * s.b.toNat).testBit 7)] fun t =>
    t.d.toNat = s.a.toNat * s.b.toNat) ∧
  (∀ s : State, s.x ≠ 0 → Completes .idiv s [.a, .b, .x] [(.z, decide (s.d.toNat < s.x.toNat)), (.v, false), (.c, false)]
    fun t => t.x.toNat = s.d.toNat / s.x.toNat ∧ t.d.toNat = s.d.toNat % s.x.toNat) ∧
  (∀ s : State, s.x = 0 → Completes .idiv s [.a, .b, .x] [(.z, false), (.v, false), (.c, true)] fun t => t.x = 0xFFFF) ∧
  (∀ s : State, s.d.toNat < s.x.toNat →
    Completes .fdiv s [.a, .b, .x] [(.z, decide (s.d.toNat * 65536 < s.x.toNat)), (.v, false), (.c, false)] fun t =>
      t.x.toNat = s.d.toNat * 65536 / s.x.toNat ∧ t.d.toNat = s.d.toNat * 65536 % s.x.toNat) ∧
  (∀ s : State, s.x.toNat ≤ s.d.toNat →
    Completes .fdiv s [.a, .b, .x] [(.z, false), (.v, true), (.c, s.x == 0)] fun t => t.x = 0xFFFF)

/-! ## Logic and bits -/

/-- ANDA, ANDB, EORA, EORB, ORAA, ORAB and the tests BITA and BITB, which write no register, each in its eight forms: N and Z of
the result, V = 0, C does not change (R301 to R308). -/
def Obligations.LogicInstructions : Prop :=
  (∀ p ∈ ([(0x84, .anda), (0xC4, .andb), (0x85, .bita), (0xC5, .bitb), (0x88, .eora), (0xC8, .eorb), (0x8A, .oraa),
      (0xCA, .orab)] : List (Byte × (Src8 → Instr))), EightForms8 p.1 p.2) ∧
  (∀ p ∈ ([(.a, .anda, fun x m => x &&& m), (.b, .andb, fun x m => x &&& m), (.a, .eora, fun x m => x ^^^ m),
      (.b, .eorb, fun x m => x ^^^ m), (.a, .oraa, fun x m => x ||| m), (.b, .orab, fun x m => x ||| m)] :
      List (Reg8 × (Src8 → Instr) × (Byte → Byte → Byte))),
    ∀ (op : Src8) (s s1 : State) (m r : Byte), s.opnd8 op = .ok (m, s1) → r = p.2.2 (s.get8 p.1) m →
      Completes (p.2.1 op) s (reg8Names p.1 ++ adjusts (src8Auto op)) [(.n, r.msb), (.z, r == 0), (.v, false)] fun t =>
        t.get8 p.1 = r ∧ ∀ q ∈ adjusts (src8Auto op), t.reg q = s1.reg q) ∧
  (∀ p ∈ ([(.a, .bita), (.b, .bitb)] : List (Reg8 × (Src8 → Instr))),
    ∀ (op : Src8) (s s1 : State) (m r : Byte), s.opnd8 op = .ok (m, s1) → r = s.get8 p.1 &&& m →
      Completes (p.2 op) s (adjusts (src8Auto op)) [(.n, r.msb), (.z, r == 0), (.v, false)] fun t =>
        ∀ q ∈ adjusts (src8Auto op), t.reg q = s1.reg q)

/-- ANDCC clears, ORCC sets the bits of its mask, but ORCC never X; CLC, CLI, CLV, SEC, SEI, SEV write their one flag (R312 to
R319, D27). -/
def Obligations.MaskInstructions : Prop :=
  (∀ (s : State) (ii : Byte),
    Completes (.andcc ii) s [] [(.s, s.flag .s && ii.getLsbD 7), (.x, s.flag .x && ii.getLsbD 6),
      (.h, s.flag .h && ii.getLsbD 5), (.i, s.flag .i && ii.getLsbD 4), (.n, s.flag .n && ii.getLsbD 3),
      (.z, s.flag .z && ii.getLsbD 2), (.v, s.flag .v && ii.getLsbD 1), (.c, s.flag .c && ii.getLsbD 0)] fun _ => True) ∧
  (∀ (s : State) (ii : Byte),
    Completes (.orcc ii) s [] [(.s, s.flag .s || ii.getLsbD 7), (.h, s.flag .h || ii.getLsbD 5),
      (.i, s.flag .i || ii.getLsbD 4), (.n, s.flag .n || ii.getLsbD 3), (.z, s.flag .z || ii.getLsbD 2),
      (.v, s.flag .v || ii.getLsbD 1), (.c, s.flag .c || ii.getLsbD 0)] fun _ => True) ∧
  (∀ p ∈ ([(.clc, .c, false), (.cli, .i, false), (.clv, .v, false), (.sec, .c, true), (.sei, .i, true), (.sev, .v, true)] :
      List (Instr × Flag × Bool)),
    ∀ s : State, Completes p.1 s [] [p.2] fun _ => True)

/-- `LoadCCR(v)` is `(v & $BF) | ((CCR & v) & $40)`, and PULC, RTI, TFR into CCR (TAP) and EXG with CCR load CCR so (R47). -/
def Obligations.LoadCcr : Prop :=
  (∀ (s s1 : State) (v : Byte), s.read8 s.sp = .ok (v, s1) →
    ∃ t, exec .pulc s = .next t ∧ t.ccr = ((v &&& 0xBF) ||| ((s.ccr &&& v) &&& 0x40))) ∧
  (∀ s : State, s.PlainFrom .read s.sp 9 → ∃ t, exec .rti s = .next t ∧
    t.ccr = ((s.byteAt s.sp &&& 0xBF) ||| ((s.ccr &&& s.byteAt s.sp) &&& 0x40))) ∧
  (∀ (s : State) (r : Reg), ∃ t, exec (.tfr r .ccr) s = .next t ∧
    t.ccr = ((s.regLow r &&& 0xBF) ||| ((s.ccr &&& s.regLow r) &&& 0x40))) ∧
  (∀ s : State, ∃ t, exec .tap s = .next t ∧ t.ccr = ((s.a &&& 0xBF) ||| ((s.ccr &&& s.a) &&& 0x40))) ∧
  (∀ (s : State) (r : Reg), ∃ t, exec (.exg r .ccr) s = .next t ∧
    t.ccr = ((s.regLow r &&& 0xBF) ||| ((s.ccr &&& s.regLow r) &&& 0x40))) ∧
  (∀ (s : State) (r : Reg), ∃ t v, exec (.exg .ccr r) s = .next t ∧ (regWide r = false → v = s.regLow r) ∧
    t.ccr = ((v &&& 0xBF) ||| ((s.ccr &&& v) &&& 0x40)))

/-- BCLR and BSET on plain memory, their base not PC: the selected bits of the byte are cleared or set, the others stay; N and
Z of the whole byte, V = 0 (R320 to R322, C5). -/
def Obligations.BitManipulation : Prop :=
  ∀ (m : Mem) (mm : Byte) (s s1 : State) (ea : Word), Memory.wf s.mem → memOnPc m = false → s.ea m = .ok (ea, s1) →
    s.PlainAt .read ea → s.PlainAt .write ea →
    (∀ r : Byte, (∀ k, k < 8 → r.getLsbD k = (!mm.getLsbD k && (s.byteAt ea).getLsbD k)) →
      CompletesStore (.bclr m mm) s (adjusts (memAuto m)) [(.n, r.msb), (.z, r == 0), (.v, false)] ea 1 fun t =>
        t.byteAt ea = r ∧ ∀ q ∈ adjusts (memAuto m), t.reg q = s1.reg q) ∧
    (∀ r : Byte, (∀ k, k < 8 → r.getLsbD k = (mm.getLsbD k || (s.byteAt ea).getLsbD k)) →
      CompletesStore (.bset m mm) s (adjusts (memAuto m)) [(.n, r.msb), (.z, r == 0), (.v, false)] ea 1 fun t =>
        t.byteAt ea = r ∧ ∀ q ∈ adjusts (memAuto m), t.reg q = s1.reg q)

/-- The shifts and rotates by one bit, in memory, on A, on B and on D: the bit shifted out is C, V = N xor C (R341 to R363). -/
def Obligations.ShiftInstructions : Prop :=
  (∀ p ∈ ([(.asl, .asla, .aslb), (.lsl, .lsla, .lslb)] : List ((Mem → Instr) × Instr × Instr)),
    OneOperand p.1 p.2.1 p.2.2 (fun _ v => BitVec.ofNat 8 (2 * v.toNat)) (fun _ v =>
      [(.n, v.getLsbD 6), (.z, BitVec.ofNat 8 (2 * v.toNat) == 0), (.v, v.getLsbD 6 != v.getLsbD 7), (.c, v.getLsbD 7)])) ∧
  OneOperand .asr .asra .asrb (fun _ v => BitVec.ofInt 8 (v.toInt / 2)) (fun _ v =>
    [(.n, v.getLsbD 7), (.z, BitVec.ofInt 8 (v.toInt / 2) == 0), (.v, v.getLsbD 7 != v.getLsbD 0), (.c, v.getLsbD 0)]) ∧
  OneOperand .lsr .lsra .lsrb (fun _ v => BitVec.ofNat 8 (v.toNat / 2)) (fun _ v =>
    [(.n, false), (.z, BitVec.ofNat 8 (v.toNat / 2) == 0), (.v, v.getLsbD 0), (.c, v.getLsbD 0)]) ∧
  OneOperand .rol .rola .rolb (fun c v => BitVec.ofNat 8 (2 * v.toNat + c.toNat)) (fun c v =>
    [(.n, v.getLsbD 6), (.z, BitVec.ofNat 8 (2 * v.toNat + c.toNat) == 0), (.v, v.getLsbD 6 != v.getLsbD 7),
     (.c, v.getLsbD 7)]) ∧
  OneOperand .ror .rora .rorb (fun c v => BitVec.ofNat 8 (v.toNat / 2 + 128 * c.toNat)) (fun c v =>
    [(.n, c), (.z, BitVec.ofNat 8 (v.toNat / 2 + 128 * c.toNat) == 0), (.v, c != v.getLsbD 0), (.c, v.getLsbD 0)]) ∧
  (∀ i ∈ ([.asld, .lsld] : List Instr), ∀ (s : State) (r : Word), r.toNat = 2 * s.d.toNat % 65536 →
    Completes i s [.a, .b] [(.n, r.msb), (.z, r == 0), (.v, r.msb != s.d.msb), (.c, s.d.msb)] fun t => t.d = r) ∧
  (∀ (s : State) (r : Word), r.toNat = s.d.toNat / 2 →
    Completes .lsrd s [.a, .b] [(.n, false), (.z, r == 0), (.v, s.d.getLsbD 0), (.c, s.d.getLsbD 0)] fun t => t.d = r)

/-! ## Control flow -/

/-- The short branches: PC becomes `npc` plus the signed offset if the condition of R372 holds, else stays at `npc`; nothing
else changes (R371 to R389). -/
def Obligations.ShortBranches : Prop :=
  ∀ p ∈ ([(.bra, fun _ => true), (.bcc, fun s => !s.flag .c), (.bhs, fun s => !s.flag .c), (.bcs, fun s => s.flag .c),
      (.blo, fun s => s.flag .c), (.bne, fun s => !s.flag .z), (.beq, fun s => s.flag .z), (.bvc, fun s => !s.flag .v),
      (.bvs, fun s => s.flag .v), (.bpl, fun s => !s.flag .n), (.bmi, fun s => s.flag .n),
      (.bhi, fun s => !(s.flag .c || s.flag .z)), (.bls, fun s => s.flag .c || s.flag .z),
      (.bge, fun s => !(s.flag .n ^^ s.flag .v)), (.blt, fun s => s.flag .n ^^ s.flag .v),
      (.bgt, fun s => !(s.flag .z || (s.flag .n ^^ s.flag .v))), (.ble, fun s => s.flag .z || (s.flag .n ^^ s.flag .v))] :
      List ((Byte → Instr) × (State → Bool))),
    ∀ (s : State) (rr : Byte),
      CompletesAt (p.1 rr) s [] (if p.2 s then s.pc + BitVec.ofInt 16 rr.toInt else s.pc) fun _ => True

/-- BRCLR branches when all selected bits of the byte are clear, BRSET when all are set, their base not PC; nothing else
changes (R390 to R392, C4). -/
def Obligations.BitBranches : Prop :=
  ∀ (m : Mem) (mm rr : Byte) (s s1 s2 : State) (ea : Word) (v : Byte), memOnPc m = false → s.ea m = .ok (ea, s1) →
    s1.read8 ea = .ok (v, s2) →
    (CompletesAt (.brclr m mm rr) s (adjusts (memAuto m))
      (if ∀ k < 8, mm.getLsbD k = true → v.getLsbD k = false then s.pc + BitVec.ofInt 16 rr.toInt else s.pc)
      fun t => ∀ q ∈ adjusts (memAuto m), t.reg q = s1.reg q) ∧
    (CompletesAt (.brset m mm rr) s (adjusts (memAuto m))
      (if ∀ k < 8, mm.getLsbD k = true → v.getLsbD k = true then s.pc + BitVec.ofInt 16 rr.toInt else s.pc)
      fun t => ∀ q ∈ adjusts (memAuto m), t.reg q = s1.reg q)

/-- JMP goes to the effective address; BSR and JSR push `npc` and go to their target; RTS goes to the word at SP and drops it;
no flag changes (R393 to R397). -/
def Obligations.JumpsAndCalls : Prop :=
  (∀ (m : Mem) (s s1 : State) (ea : Word), s.ea m = .ok (ea, s1) →
    CompletesAt (.jmp m) s (adjusts (memAuto m)) ea fun t => ∀ q ∈ adjusts (memAuto m), t.reg q = s1.reg q) ∧
  (∀ (s : State) (rr : Byte), Memory.wf s.mem → s.PlainFrom .write (s.sp - 2) 2 →
    CompletesCall (.bsr rr) s [] (s.pc + BitVec.ofInt 16 rr.toInt) fun _ => True) ∧
  (∀ (m : Mem) (s s1 : State) (ea : Word), Memory.wf s.mem → s.ea m = .ok (ea, s1) → autoOverlap (.jsr m) = false →
    s.PlainFrom .write (s.sp - 2) 2 →
    CompletesCall (.jsr m) s (adjusts (memAuto m)) ea fun t => ∀ q ∈ adjusts (memAuto m), t.reg q = s1.reg q) ∧
  (∀ (s s1 : State) (v : Word), s.read16 s.sp = .ok (v, s1) → CompletesAt .rts s [.sp] v fun t => t.sp = s.sp + 2)

/-- The loop primitives, `04 lb rr` with the primitive, the offset's sign and the counter in `lb`: the counter goes down or up by one modulo its width (TBEQ and TBNE leave it), and the branch is taken
if it is zero (DBEQ, IBEQ, TBEQ) or is not (DBNE, IBNE, TBNE) then; no flag changes (R400; R401 to R406). -/
def Obligations.LoopPrimitives : Prop :=
  (∀ p ∈ ([(0, .dbeq), (1, .dbne), (2, .tbeq), (3, .tbne), (4, .ibeq), (5, .ibne)] :
      List (BitVec 3 × (Cntr → BitVec 9 → Instr))),
    ∀ q ∈ ([(0, .a), (1, .b), (4, .d), (5, .x), (6, .y), (7, .sp)] : List (BitVec 3 × Cntr)),
      ∀ (sign : BitVec 1) (rr : Byte) (rest : List Byte),
        decode (0x04 :: (p.1 ++ sign ++ (0#1 : BitVec 1) ++ q.1) :: rr :: rest) = .ok (p.2 q.2 (sign ++ rr), rest)) ∧
  ∀ p ∈ ([(.dbeq, -1, true), (.dbne, -1, false), (.ibeq, 1, true), (.ibne, 1, false), (.tbeq, 0, true), (.tbne, 0, false)] :
      List ((Cntr → BitVec 9 → Instr) × Int × Bool)),
    ∀ (c : Cntr) (rel : BitVec 9) (s : State) (k : Int), k = ((s.cntrVal c : Int) + p.2.1) % cntrModulus c →
      CompletesAt (p.1 c rel) s (if p.2.1 = 0 then [] else cntrNames c)
        (if decide (k = 0) = p.2.2 then s.pc + BitVec.ofInt 16 rel.toInt else s.pc)
        fun t => (t.cntrVal c : Int) = k

/-- NOP is the byte `A7` and does nothing but go on at `npc` (R410). -/
def Obligations.NopDoesNothing : Prop :=
  (∀ rest, decode (0xA7 :: rest) = .ok (.nop, rest)) ∧ (∀ s : State, exec .nop s = .next s) ∧
  (∀ s : State, s.Quiet → s.CodeAtPc [0xA7] → step s = .next { s with pc := s.pc + 1, inputs := s.inputs.tail })

end
end

