-- ==== Sys2Proof/Laws/Memory.lean ====
section
/-! SUPPORT. The laws of memory as data: a read after a write, and the canonical form, which every operation keeps. -/

namespace Sys2Proof.Machine

/-- A write leaves every other address alone, whatever the list looks like. -/
theorem Memory.read_write_ne (m : List Host.Cell) (a b : Nat) (v : Byte) (h : b ≠ a) :
    Memory.read (Memory.write m a v) b = Memory.read m b := by
  induction m with
  | nil =>
    unfold Memory.write
    split
    · rfl
    · simp only [Memory.read, if_neg (Ne.symm h)]
  | cons c m ih =>
    obtain ⟨k, w⟩ := c
    unfold Memory.write
    split_ifs with h1 h2 h3 h3
    · simp only [Memory.read, ih]
    · subst h2
      simp only [Memory.read, if_neg (Ne.symm h)]
    · subst h2
      simp only [Memory.read, if_neg (Ne.symm h)]
    · rfl
    · simp only [Memory.read, if_neg (Ne.symm h)]

/-- An address below every listed one reads as blank. -/
theorem Memory.read_blank (m : List Host.Cell) (a : Nat) (h : ∀ c ∈ m, a < c.1) : Memory.read m a = Memory.blank := by
  induction m with
  | nil => rfl
  | cons c m ih =>
    obtain ⟨k, w⟩ := c
    have hk : k ≠ a := Nat.ne_of_gt (h (k, w) List.mem_cons_self)
    simp only [Memory.read, if_neg hk]
    exact ih fun c hc => h c (List.mem_cons_of_mem _ hc)

/-- A read after a write to the same address gives the value written, in the canonical form. -/
theorem Memory.read_write_self (m : List Host.Cell) (a : Nat) (v : Byte) (h : Memory.wf m) :
    Memory.read (Memory.write m a v) a = v := by
  induction m with
  | nil =>
    unfold Memory.write
    split
    · rename_i hv
      exact hv ▸ rfl
    · simp only [Memory.read, if_true]
  | cons c m ih =>
    obtain ⟨k, w⟩ := c
    obtain ⟨hp, hc⟩ := h
    rw [List.pairwise_cons] at hp
    unfold Memory.write
    split_ifs with h1 h2 h3 h3
    · have hk : k ≠ a := Nat.ne_of_lt h1
      simp only [Memory.read, if_neg hk]
      exact ih ⟨hp.2, fun c h => hc c (List.mem_cons_of_mem _ h)⟩
    · subst h2
      rw [h3]
      exact Memory.read_blank m k fun c h => hp.1 c h
    · simp only [Memory.read, if_true]
    · have hk : k ≠ a := fun e => h2 e
      rw [h3]
      apply Memory.read_blank
      intro c h
      rcases List.mem_cons.1 h with rfl | h
      · omega
      · have := hp.1 c h
        simp only at this
        omega
    · simp only [Memory.read, if_true]

/-- The entries after a write are old entries or the written one, whose value is then not blank. -/
theorem Memory.mem_write (m : List Host.Cell) (a : Nat) (v : Byte) (c : Host.Cell) (h : c ∈ Memory.write m a v) :
    c ∈ m ∨ (c = (a, v) ∧ v ≠ Memory.blank) := by
  induction m with
  | nil =>
    unfold Memory.write at h
    split_ifs at h with hv
    · exact absurd h List.not_mem_nil
    · exact .inr ⟨List.mem_singleton.1 h, hv⟩
  | cons d m ih =>
    obtain ⟨k, w⟩ := d
    unfold Memory.write at h
    split_ifs at h with h1 h2 h3 h3
    · rcases List.mem_cons.1 h with rfl | h
      · exact .inl List.mem_cons_self
      · exact (ih h).imp (List.mem_cons_of_mem _) id
    · exact .inl (List.mem_cons_of_mem _ h)
    · rcases List.mem_cons.1 h with rfl | h
      · exact .inr ⟨rfl, h3⟩
      · exact .inl (List.mem_cons_of_mem _ h)
    · exact .inl h
    · rcases List.mem_cons.1 h with rfl | h
      · exact .inr ⟨rfl, h3⟩
      · exact .inl h

/-- A write keeps the canonical form. -/
theorem Memory.wf_write (m : List Host.Cell) (a : Nat) (v : Byte) (ha : a < 65536) (h : Memory.wf m) :
    Memory.wf (Memory.write m a v) := by
  refine ⟨?_, fun c hc => ?_⟩
  · obtain ⟨hp, -⟩ := h
    induction m with
    | nil =>
      unfold Memory.write
      split_ifs
      · exact List.Pairwise.nil
      · exact List.pairwise_singleton _ _
    | cons d m ih =>
      obtain ⟨k, w⟩ := d
      rw [List.pairwise_cons] at hp
      unfold Memory.write
      split_ifs with h1 h2 h3 h3
      · rw [List.pairwise_cons]
        refine ⟨fun c hc => ?_, ih hp.2⟩
        rcases Memory.mem_write m a v c hc with h | ⟨rfl, -⟩
        · exact hp.1 c h
        · exact h1
      · exact hp.2
      · subst h2
        exact List.pairwise_cons.2 hp
      · exact List.pairwise_cons.2 hp
      · rw [List.pairwise_cons]
        refine ⟨fun c hc => ?_, List.pairwise_cons.2 hp⟩
        rcases List.mem_cons.1 hc with rfl | hc
        · show a < k
          omega
        · have := hp.1 c hc
          simp only at this
          show a < c.1
          omega
  · rcases Memory.mem_write m a v c hc with hm | ⟨rfl, hv⟩
    · exact h.2 c hm
    · exact ⟨ha, hv⟩

/-- The memory of the reset state has the canonical form. -/
theorem Memory.wf_reset : Memory.wf State.reset.mem := by decide

/-- Reading one byte after `store`: the written address. -/
theorem byteAt_store_self (s : State) (a : Word) (v : Byte) (h : Memory.wf s.mem) : (s.store a v).byteAt a = v :=
  Memory.read_write_self s.mem a.toNat v h

/-- Reading one byte after `store`: every other address. -/
theorem byteAt_store_ne (s : State) (a b : Word) (v : Byte) (h : b ≠ a) : (s.store a v).byteAt b = s.byteAt b :=
  Memory.read_write_ne s.mem a.toNat b.toNat v fun e => h (BitVec.eq_of_toNat_eq e)

/-- `store` keeps the invariant. -/
theorem Inv_store (s : State) (a : Word) (v : Byte) (h : s.Inv) : (s.store a v).Inv := by
  refine ⟨Memory.wf_write s.mem a.toNat v a.isLt h.mem, ?_⟩
  show (if s.inWindow a then s.stale.insert a else s.stale).Nodup
  split
  · exact h.stale.insert
  · exact h.stale

end Sys2Proof.Machine
end

