-- ==== Sys2Proof/Laws/State.lean ====
section
/-! SUPPORT. One lemma for every field under every update of the state, so that no proof unfolds an update; and what the
flags read as after every update. -/

namespace Sys2Proof.Machine

/-! ### putFlag -/

@[simp] theorem putFlag_a (s : State) (f : Flag) (v : Bool) : (s.putFlag f v).a = s.a := rfl
@[simp] theorem putFlag_b (s : State) (f : Flag) (v : Bool) : (s.putFlag f v).b = s.b := rfl
@[simp] theorem putFlag_x (s : State) (f : Flag) (v : Bool) : (s.putFlag f v).x = s.x := rfl
@[simp] theorem putFlag_y (s : State) (f : Flag) (v : Bool) : (s.putFlag f v).y = s.y := rfl
@[simp] theorem putFlag_sp (s : State) (f : Flag) (v : Bool) : (s.putFlag f v).sp = s.sp := rfl
@[simp] theorem putFlag_pc (s : State) (f : Flag) (v : Bool) : (s.putFlag f v).pc = s.pc := rfl
@[simp] theorem putFlag_ccr (s : State) (f : Flag) (v : Bool) : (s.putFlag f v).ccr = ccrPut s.ccr f v := rfl
@[simp] theorem putFlag_mem (s : State) (f : Flag) (v : Bool) : (s.putFlag f v).mem = s.mem := rfl
@[simp] theorem putFlag_stopped (s : State) (f : Flag) (v : Bool) : (s.putFlag f v).stopped = s.stopped := rfl
@[simp] theorem putFlag_stale (s : State) (f : Flag) (v : Bool) : (s.putFlag f v).stale = s.stale := rfl
@[simp] theorem putFlag_inputs (s : State) (f : Flag) (v : Bool) : (s.putFlag f v).inputs = s.inputs := rfl
@[simp] theorem putFlag_draws (s : State) (f : Flag) (v : Bool) : (s.putFlag f v).draws = s.draws := rfl
@[simp] theorem putFlag_cfg (s : State) (f : Flag) (v : Bool) : (s.putFlag f v).cfg = s.cfg := rfl

/-! ### loadCcr -/

@[simp] theorem loadCcr_a (s : State) (v : Byte) : (s.loadCcr v).a = s.a := rfl
@[simp] theorem loadCcr_b (s : State) (v : Byte) : (s.loadCcr v).b = s.b := rfl
@[simp] theorem loadCcr_x (s : State) (v : Byte) : (s.loadCcr v).x = s.x := rfl
@[simp] theorem loadCcr_y (s : State) (v : Byte) : (s.loadCcr v).y = s.y := rfl
@[simp] theorem loadCcr_sp (s : State) (v : Byte) : (s.loadCcr v).sp = s.sp := rfl
@[simp] theorem loadCcr_pc (s : State) (v : Byte) : (s.loadCcr v).pc = s.pc := rfl
@[simp] theorem loadCcr_ccr (s : State) (v : Byte) : (s.loadCcr v).ccr = ccrLoad s.ccr v := rfl
@[simp] theorem loadCcr_mem (s : State) (v : Byte) : (s.loadCcr v).mem = s.mem := rfl
@[simp] theorem loadCcr_stopped (s : State) (v : Byte) : (s.loadCcr v).stopped = s.stopped := rfl
@[simp] theorem loadCcr_stale (s : State) (v : Byte) : (s.loadCcr v).stale = s.stale := rfl
@[simp] theorem loadCcr_inputs (s : State) (v : Byte) : (s.loadCcr v).inputs = s.inputs := rfl
@[simp] theorem loadCcr_draws (s : State) (v : Byte) : (s.loadCcr v).draws = s.draws := rfl
@[simp] theorem loadCcr_cfg (s : State) (v : Byte) : (s.loadCcr v).cfg = s.cfg := rfl

/-! ### putNZV -/

@[simp] theorem putNZV_a (s : State) (n z v : Bool) : (s.putNZV n z v).a = s.a := by simp only [State.putNZV, putFlag_a]
@[simp] theorem putNZV_b (s : State) (n z v : Bool) : (s.putNZV n z v).b = s.b := by simp only [State.putNZV, putFlag_b]
@[simp] theorem putNZV_x (s : State) (n z v : Bool) : (s.putNZV n z v).x = s.x := by simp only [State.putNZV, putFlag_x]
@[simp] theorem putNZV_y (s : State) (n z v : Bool) : (s.putNZV n z v).y = s.y := by simp only [State.putNZV, putFlag_y]
@[simp] theorem putNZV_sp (s : State) (n z v : Bool) : (s.putNZV n z v).sp = s.sp := by simp only [State.putNZV, putFlag_sp]
@[simp] theorem putNZV_pc (s : State) (n z v : Bool) : (s.putNZV n z v).pc = s.pc := by simp only [State.putNZV, putFlag_pc]
@[simp] theorem putNZV_ccr (s : State) (n z v : Bool) : (s.putNZV n z v).ccr = ccrPut (ccrPut (ccrPut s.ccr .n n) .z z) .v v := by simp only [State.putNZV, putFlag_ccr]
@[simp] theorem putNZV_mem (s : State) (n z v : Bool) : (s.putNZV n z v).mem = s.mem := by simp only [State.putNZV, putFlag_mem]
@[simp] theorem putNZV_stopped (s : State) (n z v : Bool) : (s.putNZV n z v).stopped = s.stopped := by simp only [State.putNZV, putFlag_stopped]
@[simp] theorem putNZV_stale (s : State) (n z v : Bool) : (s.putNZV n z v).stale = s.stale := by simp only [State.putNZV, putFlag_stale]
@[simp] theorem putNZV_inputs (s : State) (n z v : Bool) : (s.putNZV n z v).inputs = s.inputs := by simp only [State.putNZV, putFlag_inputs]
@[simp] theorem putNZV_draws (s : State) (n z v : Bool) : (s.putNZV n z v).draws = s.draws := by simp only [State.putNZV, putFlag_draws]
@[simp] theorem putNZV_cfg (s : State) (n z v : Bool) : (s.putNZV n z v).cfg = s.cfg := by simp only [State.putNZV, putFlag_cfg]

/-! ### putNZVC -/

@[simp] theorem putNZVC_a (s : State) (n z v c : Bool) : (s.putNZVC n z v c).a = s.a := by simp only [State.putNZVC, putNZV_a, putFlag_a]
@[simp] theorem putNZVC_b (s : State) (n z v c : Bool) : (s.putNZVC n z v c).b = s.b := by simp only [State.putNZVC, putNZV_b, putFlag_b]
@[simp] theorem putNZVC_x (s : State) (n z v c : Bool) : (s.putNZVC n z v c).x = s.x := by simp only [State.putNZVC, putNZV_x, putFlag_x]
@[simp] theorem putNZVC_y (s : State) (n z v c : Bool) : (s.putNZVC n z v c).y = s.y := by simp only [State.putNZVC, putNZV_y, putFlag_y]
@[simp] theorem putNZVC_sp (s : State) (n z v c : Bool) : (s.putNZVC n z v c).sp = s.sp := by simp only [State.putNZVC, putNZV_sp, putFlag_sp]
@[simp] theorem putNZVC_pc (s : State) (n z v c : Bool) : (s.putNZVC n z v c).pc = s.pc := by simp only [State.putNZVC, putNZV_pc, putFlag_pc]
@[simp] theorem putNZVC_mem (s : State) (n z v c : Bool) : (s.putNZVC n z v c).mem = s.mem := by simp only [State.putNZVC, putNZV_mem, putFlag_mem]
@[simp] theorem putNZVC_stopped (s : State) (n z v c : Bool) : (s.putNZVC n z v c).stopped = s.stopped := by simp only [State.putNZVC, putNZV_stopped, putFlag_stopped]
@[simp] theorem putNZVC_stale (s : State) (n z v c : Bool) : (s.putNZVC n z v c).stale = s.stale := by simp only [State.putNZVC, putNZV_stale, putFlag_stale]
@[simp] theorem putNZVC_inputs (s : State) (n z v c : Bool) : (s.putNZVC n z v c).inputs = s.inputs := by simp only [State.putNZVC, putNZV_inputs, putFlag_inputs]
@[simp] theorem putNZVC_draws (s : State) (n z v c : Bool) : (s.putNZVC n z v c).draws = s.draws := by simp only [State.putNZVC, putNZV_draws, putFlag_draws]
@[simp] theorem putNZVC_cfg (s : State) (n z v c : Bool) : (s.putNZVC n z v c).cfg = s.cfg := by simp only [State.putNZVC, putNZV_cfg, putFlag_cfg]

/-! ### logicFlags -/

@[simp] theorem logicFlags_a (s : State) {w : Nat} (r : BitVec w) : (s.logicFlags r).a = s.a := by simp only [State.logicFlags, putNZV_a]
@[simp] theorem logicFlags_b (s : State) {w : Nat} (r : BitVec w) : (s.logicFlags r).b = s.b := by simp only [State.logicFlags, putNZV_b]
@[simp] theorem logicFlags_x (s : State) {w : Nat} (r : BitVec w) : (s.logicFlags r).x = s.x := by simp only [State.logicFlags, putNZV_x]
@[simp] theorem logicFlags_y (s : State) {w : Nat} (r : BitVec w) : (s.logicFlags r).y = s.y := by simp only [State.logicFlags, putNZV_y]
@[simp] theorem logicFlags_sp (s : State) {w : Nat} (r : BitVec w) : (s.logicFlags r).sp = s.sp := by simp only [State.logicFlags, putNZV_sp]
@[simp] theorem logicFlags_pc (s : State) {w : Nat} (r : BitVec w) : (s.logicFlags r).pc = s.pc := by simp only [State.logicFlags, putNZV_pc]
@[simp] theorem logicFlags_mem (s : State) {w : Nat} (r : BitVec w) : (s.logicFlags r).mem = s.mem := by simp only [State.logicFlags, putNZV_mem]
@[simp] theorem logicFlags_stopped (s : State) {w : Nat} (r : BitVec w) : (s.logicFlags r).stopped = s.stopped := by simp only [State.logicFlags, putNZV_stopped]
@[simp] theorem logicFlags_stale (s : State) {w : Nat} (r : BitVec w) : (s.logicFlags r).stale = s.stale := by simp only [State.logicFlags, putNZV_stale]
@[simp] theorem logicFlags_inputs (s : State) {w : Nat} (r : BitVec w) : (s.logicFlags r).inputs = s.inputs := by simp only [State.logicFlags, putNZV_inputs]
@[simp] theorem logicFlags_draws (s : State) {w : Nat} (r : BitVec w) : (s.logicFlags r).draws = s.draws := by simp only [State.logicFlags, putNZV_draws]
@[simp] theorem logicFlags_cfg (s : State) {w : Nat} (r : BitVec w) : (s.logicFlags r).cfg = s.cfg := by simp only [State.logicFlags, putNZV_cfg]

/-! ### aluFlags -/

@[simp] theorem aluFlags_a (s : State) {w : Nat} (q : Alu w) : (s.aluFlags q).a = s.a := by simp only [State.aluFlags, putNZVC_a]
@[simp] theorem aluFlags_b (s : State) {w : Nat} (q : Alu w) : (s.aluFlags q).b = s.b := by simp only [State.aluFlags, putNZVC_b]
@[simp] theorem aluFlags_x (s : State) {w : Nat} (q : Alu w) : (s.aluFlags q).x = s.x := by simp only [State.aluFlags, putNZVC_x]
@[simp] theorem aluFlags_y (s : State) {w : Nat} (q : Alu w) : (s.aluFlags q).y = s.y := by simp only [State.aluFlags, putNZVC_y]
@[simp] theorem aluFlags_sp (s : State) {w : Nat} (q : Alu w) : (s.aluFlags q).sp = s.sp := by simp only [State.aluFlags, putNZVC_sp]
@[simp] theorem aluFlags_pc (s : State) {w : Nat} (q : Alu w) : (s.aluFlags q).pc = s.pc := by simp only [State.aluFlags, putNZVC_pc]
@[simp] theorem aluFlags_mem (s : State) {w : Nat} (q : Alu w) : (s.aluFlags q).mem = s.mem := by simp only [State.aluFlags, putNZVC_mem]
@[simp] theorem aluFlags_stopped (s : State) {w : Nat} (q : Alu w) : (s.aluFlags q).stopped = s.stopped := by simp only [State.aluFlags, putNZVC_stopped]
@[simp] theorem aluFlags_stale (s : State) {w : Nat} (q : Alu w) : (s.aluFlags q).stale = s.stale := by simp only [State.aluFlags, putNZVC_stale]
@[simp] theorem aluFlags_inputs (s : State) {w : Nat} (q : Alu w) : (s.aluFlags q).inputs = s.inputs := by simp only [State.aluFlags, putNZVC_inputs]
@[simp] theorem aluFlags_draws (s : State) {w : Nat} (q : Alu w) : (s.aluFlags q).draws = s.draws := by simp only [State.aluFlags, putNZVC_draws]
@[simp] theorem aluFlags_cfg (s : State) {w : Nat} (q : Alu w) : (s.aluFlags q).cfg = s.cfg := by simp only [State.aluFlags, putNZVC_cfg]

/-! ### addFlags -/

@[simp] theorem addFlags_a (s : State) (p q : Byte) (c : Bool) : (s.addFlags p q c).a = s.a := by simp only [State.addFlags, aluFlags_a, putFlag_a]
@[simp] theorem addFlags_b (s : State) (p q : Byte) (c : Bool) : (s.addFlags p q c).b = s.b := by simp only [State.addFlags, aluFlags_b, putFlag_b]
@[simp] theorem addFlags_x (s : State) (p q : Byte) (c : Bool) : (s.addFlags p q c).x = s.x := by simp only [State.addFlags, aluFlags_x, putFlag_x]
@[simp] theorem addFlags_y (s : State) (p q : Byte) (c : Bool) : (s.addFlags p q c).y = s.y := by simp only [State.addFlags, aluFlags_y, putFlag_y]
@[simp] theorem addFlags_sp (s : State) (p q : Byte) (c : Bool) : (s.addFlags p q c).sp = s.sp := by simp only [State.addFlags, aluFlags_sp, putFlag_sp]
@[simp] theorem addFlags_pc (s : State) (p q : Byte) (c : Bool) : (s.addFlags p q c).pc = s.pc := by simp only [State.addFlags, aluFlags_pc, putFlag_pc]
@[simp] theorem addFlags_mem (s : State) (p q : Byte) (c : Bool) : (s.addFlags p q c).mem = s.mem := by simp only [State.addFlags, aluFlags_mem, putFlag_mem]
@[simp] theorem addFlags_stopped (s : State) (p q : Byte) (c : Bool) : (s.addFlags p q c).stopped = s.stopped := by simp only [State.addFlags, aluFlags_stopped, putFlag_stopped]
@[simp] theorem addFlags_stale (s : State) (p q : Byte) (c : Bool) : (s.addFlags p q c).stale = s.stale := by simp only [State.addFlags, aluFlags_stale, putFlag_stale]
@[simp] theorem addFlags_inputs (s : State) (p q : Byte) (c : Bool) : (s.addFlags p q c).inputs = s.inputs := by simp only [State.addFlags, aluFlags_inputs, putFlag_inputs]
@[simp] theorem addFlags_draws (s : State) (p q : Byte) (c : Bool) : (s.addFlags p q c).draws = s.draws := by simp only [State.addFlags, aluFlags_draws, putFlag_draws]
@[simp] theorem addFlags_cfg (s : State) (p q : Byte) (c : Bool) : (s.addFlags p q c).cfg = s.cfg := by simp only [State.addFlags, aluFlags_cfg, putFlag_cfg]

/-! ### clearFlags -/

@[simp] theorem clearFlags_a (s : State) : (s.clearFlags).a = s.a := by simp only [State.clearFlags, putNZVC_a]
@[simp] theorem clearFlags_b (s : State) : (s.clearFlags).b = s.b := by simp only [State.clearFlags, putNZVC_b]
@[simp] theorem clearFlags_x (s : State) : (s.clearFlags).x = s.x := by simp only [State.clearFlags, putNZVC_x]
@[simp] theorem clearFlags_y (s : State) : (s.clearFlags).y = s.y := by simp only [State.clearFlags, putNZVC_y]
@[simp] theorem clearFlags_sp (s : State) : (s.clearFlags).sp = s.sp := by simp only [State.clearFlags, putNZVC_sp]
@[simp] theorem clearFlags_pc (s : State) : (s.clearFlags).pc = s.pc := by simp only [State.clearFlags, putNZVC_pc]
@[simp] theorem clearFlags_mem (s : State) : (s.clearFlags).mem = s.mem := by simp only [State.clearFlags, putNZVC_mem]
@[simp] theorem clearFlags_stopped (s : State) : (s.clearFlags).stopped = s.stopped := by simp only [State.clearFlags, putNZVC_stopped]
@[simp] theorem clearFlags_stale (s : State) : (s.clearFlags).stale = s.stale := by simp only [State.clearFlags, putNZVC_stale]
@[simp] theorem clearFlags_inputs (s : State) : (s.clearFlags).inputs = s.inputs := by simp only [State.clearFlags, putNZVC_inputs]
@[simp] theorem clearFlags_draws (s : State) : (s.clearFlags).draws = s.draws := by simp only [State.clearFlags, putNZVC_draws]
@[simp] theorem clearFlags_cfg (s : State) : (s.clearFlags).cfg = s.cfg := by simp only [State.clearFlags, putNZVC_cfg]

/-! ### testFlags -/

@[simp] theorem testFlags_a (s : State) (v : Byte) : (s.testFlags v).a = s.a := by simp only [State.testFlags, putNZVC_a]
@[simp] theorem testFlags_b (s : State) (v : Byte) : (s.testFlags v).b = s.b := by simp only [State.testFlags, putNZVC_b]
@[simp] theorem testFlags_x (s : State) (v : Byte) : (s.testFlags v).x = s.x := by simp only [State.testFlags, putNZVC_x]
@[simp] theorem testFlags_y (s : State) (v : Byte) : (s.testFlags v).y = s.y := by simp only [State.testFlags, putNZVC_y]
@[simp] theorem testFlags_sp (s : State) (v : Byte) : (s.testFlags v).sp = s.sp := by simp only [State.testFlags, putNZVC_sp]
@[simp] theorem testFlags_pc (s : State) (v : Byte) : (s.testFlags v).pc = s.pc := by simp only [State.testFlags, putNZVC_pc]
@[simp] theorem testFlags_mem (s : State) (v : Byte) : (s.testFlags v).mem = s.mem := by simp only [State.testFlags, putNZVC_mem]
@[simp] theorem testFlags_stopped (s : State) (v : Byte) : (s.testFlags v).stopped = s.stopped := by simp only [State.testFlags, putNZVC_stopped]
@[simp] theorem testFlags_stale (s : State) (v : Byte) : (s.testFlags v).stale = s.stale := by simp only [State.testFlags, putNZVC_stale]
@[simp] theorem testFlags_inputs (s : State) (v : Byte) : (s.testFlags v).inputs = s.inputs := by simp only [State.testFlags, putNZVC_inputs]
@[simp] theorem testFlags_draws (s : State) (v : Byte) : (s.testFlags v).draws = s.draws := by simp only [State.testFlags, putNZVC_draws]
@[simp] theorem testFlags_cfg (s : State) (v : Byte) : (s.testFlags v).cfg = s.cfg := by simp only [State.testFlags, putNZVC_cfg]

/-! ### andCcr -/

@[simp] theorem andCcr_a (s : State) (v : Byte) : (s.andCcr v).a = s.a := rfl
@[simp] theorem andCcr_b (s : State) (v : Byte) : (s.andCcr v).b = s.b := rfl
@[simp] theorem andCcr_x (s : State) (v : Byte) : (s.andCcr v).x = s.x := rfl
@[simp] theorem andCcr_y (s : State) (v : Byte) : (s.andCcr v).y = s.y := rfl
@[simp] theorem andCcr_sp (s : State) (v : Byte) : (s.andCcr v).sp = s.sp := rfl
@[simp] theorem andCcr_pc (s : State) (v : Byte) : (s.andCcr v).pc = s.pc := rfl
@[simp] theorem andCcr_ccr (s : State) (v : Byte) : (s.andCcr v).ccr = s.ccr &&& v := rfl
@[simp] theorem andCcr_mem (s : State) (v : Byte) : (s.andCcr v).mem = s.mem := rfl
@[simp] theorem andCcr_stopped (s : State) (v : Byte) : (s.andCcr v).stopped = s.stopped := rfl
@[simp] theorem andCcr_stale (s : State) (v : Byte) : (s.andCcr v).stale = s.stale := rfl
@[simp] theorem andCcr_inputs (s : State) (v : Byte) : (s.andCcr v).inputs = s.inputs := rfl
@[simp] theorem andCcr_draws (s : State) (v : Byte) : (s.andCcr v).draws = s.draws := rfl
@[simp] theorem andCcr_cfg (s : State) (v : Byte) : (s.andCcr v).cfg = s.cfg := rfl

/-! ### orCcr -/

@[simp] theorem orCcr_a (s : State) (v : Byte) : (s.orCcr v).a = s.a := rfl
@[simp] theorem orCcr_b (s : State) (v : Byte) : (s.orCcr v).b = s.b := rfl
@[simp] theorem orCcr_x (s : State) (v : Byte) : (s.orCcr v).x = s.x := rfl
@[simp] theorem orCcr_y (s : State) (v : Byte) : (s.orCcr v).y = s.y := rfl
@[simp] theorem orCcr_sp (s : State) (v : Byte) : (s.orCcr v).sp = s.sp := rfl
@[simp] theorem orCcr_pc (s : State) (v : Byte) : (s.orCcr v).pc = s.pc := rfl
@[simp] theorem orCcr_ccr (s : State) (v : Byte) : (s.orCcr v).ccr = s.ccr ||| (v &&& 0xBF) := rfl
@[simp] theorem orCcr_mem (s : State) (v : Byte) : (s.orCcr v).mem = s.mem := rfl
@[simp] theorem orCcr_stopped (s : State) (v : Byte) : (s.orCcr v).stopped = s.stopped := rfl
@[simp] theorem orCcr_stale (s : State) (v : Byte) : (s.orCcr v).stale = s.stale := rfl
@[simp] theorem orCcr_inputs (s : State) (v : Byte) : (s.orCcr v).inputs = s.inputs := rfl
@[simp] theorem orCcr_draws (s : State) (v : Byte) : (s.orCcr v).draws = s.draws := rfl
@[simp] theorem orCcr_cfg (s : State) (v : Byte) : (s.orCcr v).cfg = s.cfg := rfl

/-! ### setD -/

@[simp] theorem setD_a (s : State) (v : Word) : (s.setD v).a = hiByte v := rfl
@[simp] theorem setD_b (s : State) (v : Word) : (s.setD v).b = loByte v := rfl
@[simp] theorem setD_x (s : State) (v : Word) : (s.setD v).x = s.x := rfl
@[simp] theorem setD_y (s : State) (v : Word) : (s.setD v).y = s.y := rfl
@[simp] theorem setD_sp (s : State) (v : Word) : (s.setD v).sp = s.sp := rfl
@[simp] theorem setD_pc (s : State) (v : Word) : (s.setD v).pc = s.pc := rfl
@[simp] theorem setD_ccr (s : State) (v : Word) : (s.setD v).ccr = s.ccr := rfl
@[simp] theorem setD_mem (s : State) (v : Word) : (s.setD v).mem = s.mem := rfl
@[simp] theorem setD_stopped (s : State) (v : Word) : (s.setD v).stopped = s.stopped := rfl
@[simp] theorem setD_stale (s : State) (v : Word) : (s.setD v).stale = s.stale := rfl
@[simp] theorem setD_inputs (s : State) (v : Word) : (s.setD v).inputs = s.inputs := rfl
@[simp] theorem setD_draws (s : State) (v : Word) : (s.setD v).draws = s.draws := rfl
@[simp] theorem setD_cfg (s : State) (v : Word) : (s.setD v).cfg = s.cfg := rfl

/-! ### jump -/

@[simp] theorem jump_a (s : State) (t : Word) : (s.jump t).a = s.a := rfl
@[simp] theorem jump_b (s : State) (t : Word) : (s.jump t).b = s.b := rfl
@[simp] theorem jump_x (s : State) (t : Word) : (s.jump t).x = s.x := rfl
@[simp] theorem jump_y (s : State) (t : Word) : (s.jump t).y = s.y := rfl
@[simp] theorem jump_sp (s : State) (t : Word) : (s.jump t).sp = s.sp := rfl
@[simp] theorem jump_pc (s : State) (t : Word) : (s.jump t).pc = t := rfl
@[simp] theorem jump_ccr (s : State) (t : Word) : (s.jump t).ccr = s.ccr := rfl
@[simp] theorem jump_mem (s : State) (t : Word) : (s.jump t).mem = s.mem := rfl
@[simp] theorem jump_stopped (s : State) (t : Word) : (s.jump t).stopped = s.stopped := rfl
@[simp] theorem jump_stale (s : State) (t : Word) : (s.jump t).stale = [] := rfl
@[simp] theorem jump_inputs (s : State) (t : Word) : (s.jump t).inputs = s.inputs := rfl
@[simp] theorem jump_draws (s : State) (t : Word) : (s.jump t).draws = s.draws := rfl
@[simp] theorem jump_cfg (s : State) (t : Word) : (s.jump t).cfg = s.cfg := rfl

/-! ### store -/

@[simp] theorem store_a (s : State) (k : Word) (v : Byte) : (s.store k v).a = s.a := rfl
@[simp] theorem store_b (s : State) (k : Word) (v : Byte) : (s.store k v).b = s.b := rfl
@[simp] theorem store_x (s : State) (k : Word) (v : Byte) : (s.store k v).x = s.x := rfl
@[simp] theorem store_y (s : State) (k : Word) (v : Byte) : (s.store k v).y = s.y := rfl
@[simp] theorem store_sp (s : State) (k : Word) (v : Byte) : (s.store k v).sp = s.sp := rfl
@[simp] theorem store_pc (s : State) (k : Word) (v : Byte) : (s.store k v).pc = s.pc := rfl
@[simp] theorem store_ccr (s : State) (k : Word) (v : Byte) : (s.store k v).ccr = s.ccr := rfl
@[simp] theorem store_mem (s : State) (k : Word) (v : Byte) : (s.store k v).mem = Memory.write s.mem k.toNat v := rfl
@[simp] theorem store_stopped (s : State) (k : Word) (v : Byte) : (s.store k v).stopped = s.stopped := rfl
@[simp] theorem store_stale (s : State) (k : Word) (v : Byte) : (s.store k v).stale = if s.inWindow k then s.stale.insert k else s.stale := rfl
@[simp] theorem store_inputs (s : State) (k : Word) (v : Byte) : (s.store k v).inputs = s.inputs := rfl
@[simp] theorem store_draws (s : State) (k : Word) (v : Byte) : (s.store k v).draws = s.draws := rfl
@[simp] theorem store_cfg (s : State) (k : Word) (v : Byte) : (s.store k v).cfg = s.cfg := rfl

/-! ### drawWord -/

@[simp] theorem drawWord_a (s : State) : (s.drawWord.2).a = s.a := rfl
@[simp] theorem drawWord_b (s : State) : (s.drawWord.2).b = s.b := rfl
@[simp] theorem drawWord_x (s : State) : (s.drawWord.2).x = s.x := rfl
@[simp] theorem drawWord_y (s : State) : (s.drawWord.2).y = s.y := rfl
@[simp] theorem drawWord_sp (s : State) : (s.drawWord.2).sp = s.sp := rfl
@[simp] theorem drawWord_pc (s : State) : (s.drawWord.2).pc = s.pc := rfl
@[simp] theorem drawWord_ccr (s : State) : (s.drawWord.2).ccr = s.ccr := rfl
@[simp] theorem drawWord_mem (s : State) : (s.drawWord.2).mem = s.mem := rfl
@[simp] theorem drawWord_stopped (s : State) : (s.drawWord.2).stopped = s.stopped := rfl
@[simp] theorem drawWord_stale (s : State) : (s.drawWord.2).stale = s.stale := rfl
@[simp] theorem drawWord_inputs (s : State) : (s.drawWord.2).inputs = s.inputs := rfl
@[simp] theorem drawWord_draws (s : State) : (s.drawWord.2).draws = s.draws + 1 := rfl
@[simp] theorem drawWord_cfg (s : State) : (s.drawWord.2).cfg = s.cfg := rfl

/-! ### drawByte -/

@[simp] theorem drawByte_a (s : State) : (s.drawByte.2).a = s.a := rfl
@[simp] theorem drawByte_b (s : State) : (s.drawByte.2).b = s.b := rfl
@[simp] theorem drawByte_x (s : State) : (s.drawByte.2).x = s.x := rfl
@[simp] theorem drawByte_y (s : State) : (s.drawByte.2).y = s.y := rfl
@[simp] theorem drawByte_sp (s : State) : (s.drawByte.2).sp = s.sp := rfl
@[simp] theorem drawByte_pc (s : State) : (s.drawByte.2).pc = s.pc := rfl
@[simp] theorem drawByte_ccr (s : State) : (s.drawByte.2).ccr = s.ccr := rfl
@[simp] theorem drawByte_mem (s : State) : (s.drawByte.2).mem = s.mem := rfl
@[simp] theorem drawByte_stopped (s : State) : (s.drawByte.2).stopped = s.stopped := rfl
@[simp] theorem drawByte_stale (s : State) : (s.drawByte.2).stale = s.stale := rfl
@[simp] theorem drawByte_inputs (s : State) : (s.drawByte.2).inputs = s.inputs := rfl
@[simp] theorem drawByte_draws (s : State) : (s.drawByte.2).draws = s.draws + 1 := rfl
@[simp] theorem drawByte_cfg (s : State) : (s.drawByte.2).cfg = s.cfg := rfl

/-! ### drawBit -/

@[simp] theorem drawBit_a (s : State) : (s.drawBit.2).a = s.a := rfl
@[simp] theorem drawBit_b (s : State) : (s.drawBit.2).b = s.b := rfl
@[simp] theorem drawBit_x (s : State) : (s.drawBit.2).x = s.x := rfl
@[simp] theorem drawBit_y (s : State) : (s.drawBit.2).y = s.y := rfl
@[simp] theorem drawBit_sp (s : State) : (s.drawBit.2).sp = s.sp := rfl
@[simp] theorem drawBit_pc (s : State) : (s.drawBit.2).pc = s.pc := rfl
@[simp] theorem drawBit_ccr (s : State) : (s.drawBit.2).ccr = s.ccr := rfl
@[simp] theorem drawBit_mem (s : State) : (s.drawBit.2).mem = s.mem := rfl
@[simp] theorem drawBit_stopped (s : State) : (s.drawBit.2).stopped = s.stopped := rfl
@[simp] theorem drawBit_stale (s : State) : (s.drawBit.2).stale = s.stale := rfl
@[simp] theorem drawBit_inputs (s : State) : (s.drawBit.2).inputs = s.inputs := rfl
@[simp] theorem drawBit_draws (s : State) : (s.drawBit.2).draws = s.draws + 1 := rfl
@[simp] theorem drawBit_cfg (s : State) : (s.drawBit.2).cfg = s.cfg := rfl

/-! ### advance -/

@[simp] theorem advance_a (s : State) (n : Nat) : (s.advance n).a = s.a := rfl
@[simp] theorem advance_b (s : State) (n : Nat) : (s.advance n).b = s.b := rfl
@[simp] theorem advance_x (s : State) (n : Nat) : (s.advance n).x = s.x := rfl
@[simp] theorem advance_y (s : State) (n : Nat) : (s.advance n).y = s.y := rfl
@[simp] theorem advance_sp (s : State) (n : Nat) : (s.advance n).sp = s.sp := rfl
@[simp] theorem advance_pc (s : State) (n : Nat) : (s.advance n).pc = s.pc + BitVec.ofNat 16 n := rfl
@[simp] theorem advance_ccr (s : State) (n : Nat) : (s.advance n).ccr = s.ccr := rfl
@[simp] theorem advance_mem (s : State) (n : Nat) : (s.advance n).mem = s.mem := rfl
@[simp] theorem advance_stopped (s : State) (n : Nat) : (s.advance n).stopped = s.stopped := rfl
@[simp] theorem advance_stale (s : State) (n : Nat) : (s.advance n).stale = s.stale := rfl
@[simp] theorem advance_inputs (s : State) (n : Nat) : (s.advance n).inputs = s.inputs := rfl
@[simp] theorem advance_draws (s : State) (n : Nat) : (s.advance n).draws = if s.fetchesDevice n then s.draws + n else s.draws := rfl
@[simp] theorem advance_cfg (s : State) (n : Nat) : (s.advance n).cfg = s.cfg := rfl

/-! ### set8, set16, setAuto -/

@[simp] theorem set8_x (s : State) (r : Reg8) (v : Byte) : (s.set8 r v).x = s.x := by cases r <;> rfl
@[simp] theorem set8_y (s : State) (r : Reg8) (v : Byte) : (s.set8 r v).y = s.y := by cases r <;> rfl
@[simp] theorem set8_sp (s : State) (r : Reg8) (v : Byte) : (s.set8 r v).sp = s.sp := by cases r <;> rfl
@[simp] theorem set8_pc (s : State) (r : Reg8) (v : Byte) : (s.set8 r v).pc = s.pc := by cases r <;> rfl
@[simp] theorem set8_ccr (s : State) (r : Reg8) (v : Byte) : (s.set8 r v).ccr = s.ccr := by cases r <;> rfl
@[simp] theorem set8_mem (s : State) (r : Reg8) (v : Byte) : (s.set8 r v).mem = s.mem := by cases r <;> rfl
@[simp] theorem set8_stopped (s : State) (r : Reg8) (v : Byte) : (s.set8 r v).stopped = s.stopped := by cases r <;> rfl
@[simp] theorem set8_stale (s : State) (r : Reg8) (v : Byte) : (s.set8 r v).stale = s.stale := by cases r <;> rfl
@[simp] theorem set8_inputs (s : State) (r : Reg8) (v : Byte) : (s.set8 r v).inputs = s.inputs := by cases r <;> rfl
@[simp] theorem set8_draws (s : State) (r : Reg8) (v : Byte) : (s.set8 r v).draws = s.draws := by cases r <;> rfl
@[simp] theorem set8_cfg (s : State) (r : Reg8) (v : Byte) : (s.set8 r v).cfg = s.cfg := by cases r <;> rfl
@[simp] theorem set8_a_a (s : State) (v : Byte) : (s.set8 .a v).a = v := rfl
@[simp] theorem set8_a_b (s : State) (v : Byte) : (s.set8 .a v).b = s.b := rfl
@[simp] theorem set8_b_a (s : State) (v : Byte) : (s.set8 .b v).a = s.a := rfl
@[simp] theorem set8_b_b (s : State) (v : Byte) : (s.set8 .b v).b = v := rfl

@[simp] theorem set16_pc (s : State) (r : Reg16) (v : Word) : (s.set16 r v).pc = s.pc := by cases r <;> rfl
@[simp] theorem set16_ccr (s : State) (r : Reg16) (v : Word) : (s.set16 r v).ccr = s.ccr := by cases r <;> rfl
@[simp] theorem set16_mem (s : State) (r : Reg16) (v : Word) : (s.set16 r v).mem = s.mem := by cases r <;> rfl
@[simp] theorem set16_stopped (s : State) (r : Reg16) (v : Word) : (s.set16 r v).stopped = s.stopped := by cases r <;> rfl
@[simp] theorem set16_stale (s : State) (r : Reg16) (v : Word) : (s.set16 r v).stale = s.stale := by cases r <;> rfl
@[simp] theorem set16_inputs (s : State) (r : Reg16) (v : Word) : (s.set16 r v).inputs = s.inputs := by cases r <;> rfl
@[simp] theorem set16_draws (s : State) (r : Reg16) (v : Word) : (s.set16 r v).draws = s.draws := by cases r <;> rfl
@[simp] theorem set16_cfg (s : State) (r : Reg16) (v : Word) : (s.set16 r v).cfg = s.cfg := by cases r <;> rfl
@[simp] theorem set16_d_a (s : State) (v : Word) : (s.set16 .d v).a = hiByte v := rfl
@[simp] theorem set16_d_b (s : State) (v : Word) : (s.set16 .d v).b = loByte v := rfl
@[simp] theorem set16_d_x (s : State) (v : Word) : (s.set16 .d v).x = s.x := rfl
@[simp] theorem set16_d_y (s : State) (v : Word) : (s.set16 .d v).y = s.y := rfl
@[simp] theorem set16_d_sp (s : State) (v : Word) : (s.set16 .d v).sp = s.sp := rfl
@[simp] theorem set16_x_a (s : State) (v : Word) : (s.set16 .x v).a = s.a := rfl
@[simp] theorem set16_x_b (s : State) (v : Word) : (s.set16 .x v).b = s.b := rfl
@[simp] theorem set16_x_x (s : State) (v : Word) : (s.set16 .x v).x = v := rfl
@[simp] theorem set16_x_y (s : State) (v : Word) : (s.set16 .x v).y = s.y := rfl
@[simp] theorem set16_x_sp (s : State) (v : Word) : (s.set16 .x v).sp = s.sp := rfl
@[simp] theorem set16_y_a (s : State) (v : Word) : (s.set16 .y v).a = s.a := rfl
@[simp] theorem set16_y_b (s : State) (v : Word) : (s.set16 .y v).b = s.b := rfl
@[simp] theorem set16_y_x (s : State) (v : Word) : (s.set16 .y v).x = s.x := rfl
@[simp] theorem set16_y_y (s : State) (v : Word) : (s.set16 .y v).y = v := rfl
@[simp] theorem set16_y_sp (s : State) (v : Word) : (s.set16 .y v).sp = s.sp := rfl
@[simp] theorem set16_sp_a (s : State) (v : Word) : (s.set16 .sp v).a = s.a := rfl
@[simp] theorem set16_sp_b (s : State) (v : Word) : (s.set16 .sp v).b = s.b := rfl
@[simp] theorem set16_sp_x (s : State) (v : Word) : (s.set16 .sp v).x = s.x := rfl
@[simp] theorem set16_sp_y (s : State) (v : Word) : (s.set16 .sp v).y = s.y := rfl
@[simp] theorem set16_sp_sp (s : State) (v : Word) : (s.set16 .sp v).sp = v := rfl

@[simp] theorem setAuto_a (s : State) (r : AutoReg) (v : Word) : (s.setAuto r v).a = s.a := by cases r <;> rfl
@[simp] theorem setAuto_b (s : State) (r : AutoReg) (v : Word) : (s.setAuto r v).b = s.b := by cases r <;> rfl
@[simp] theorem setAuto_pc (s : State) (r : AutoReg) (v : Word) : (s.setAuto r v).pc = s.pc := by cases r <;> rfl
@[simp] theorem setAuto_ccr (s : State) (r : AutoReg) (v : Word) : (s.setAuto r v).ccr = s.ccr := by cases r <;> rfl
@[simp] theorem setAuto_mem (s : State) (r : AutoReg) (v : Word) : (s.setAuto r v).mem = s.mem := by cases r <;> rfl
@[simp] theorem setAuto_stopped (s : State) (r : AutoReg) (v : Word) : (s.setAuto r v).stopped = s.stopped := by cases r <;> rfl
@[simp] theorem setAuto_stale (s : State) (r : AutoReg) (v : Word) : (s.setAuto r v).stale = s.stale := by cases r <;> rfl
@[simp] theorem setAuto_inputs (s : State) (r : AutoReg) (v : Word) : (s.setAuto r v).inputs = s.inputs := by cases r <;> rfl
@[simp] theorem setAuto_draws (s : State) (r : AutoReg) (v : Word) : (s.setAuto r v).draws = s.draws := by cases r <;> rfl
@[simp] theorem setAuto_cfg (s : State) (r : AutoReg) (v : Word) : (s.setAuto r v).cfg = s.cfg := by cases r <;> rfl
@[simp] theorem setAuto_x_x (s : State) (v : Word) : (s.setAuto .x v).x = v := rfl
@[simp] theorem setAuto_x_y (s : State) (v : Word) : (s.setAuto .x v).y = s.y := rfl
@[simp] theorem setAuto_x_sp (s : State) (v : Word) : (s.setAuto .x v).sp = s.sp := rfl
@[simp] theorem setAuto_y_x (s : State) (v : Word) : (s.setAuto .y v).x = s.x := rfl
@[simp] theorem setAuto_y_y (s : State) (v : Word) : (s.setAuto .y v).y = v := rfl
@[simp] theorem setAuto_y_sp (s : State) (v : Word) : (s.setAuto .y v).sp = s.sp := rfl
@[simp] theorem setAuto_sp_x (s : State) (v : Word) : (s.setAuto .sp v).x = s.x := rfl
@[simp] theorem setAuto_sp_y (s : State) (v : Word) : (s.setAuto .sp v).y = s.y := rfl
@[simp] theorem setAuto_sp_sp (s : State) (v : Word) : (s.setAuto .sp v).sp = v := rfl

/-! ### branch -/

@[simp] theorem branch_a (s : State) (c : Bool) (t : Word) : (s.branch c t).a = s.a := by cases c <;> rfl
@[simp] theorem branch_b (s : State) (c : Bool) (t : Word) : (s.branch c t).b = s.b := by cases c <;> rfl
@[simp] theorem branch_x (s : State) (c : Bool) (t : Word) : (s.branch c t).x = s.x := by cases c <;> rfl
@[simp] theorem branch_y (s : State) (c : Bool) (t : Word) : (s.branch c t).y = s.y := by cases c <;> rfl
@[simp] theorem branch_sp (s : State) (c : Bool) (t : Word) : (s.branch c t).sp = s.sp := by cases c <;> rfl
@[simp] theorem branch_pc (s : State) (c : Bool) (t : Word) : (s.branch c t).pc = if c then t else s.pc := by cases c <;> rfl
@[simp] theorem branch_ccr (s : State) (c : Bool) (t : Word) : (s.branch c t).ccr = s.ccr := by cases c <;> rfl
@[simp] theorem branch_mem (s : State) (c : Bool) (t : Word) : (s.branch c t).mem = s.mem := by cases c <;> rfl
@[simp] theorem branch_stopped (s : State) (c : Bool) (t : Word) : (s.branch c t).stopped = s.stopped := by cases c <;> rfl
@[simp] theorem branch_stale (s : State) (c : Bool) (t : Word) : (s.branch c t).stale = if c then [] else s.stale := by cases c <;> rfl
@[simp] theorem branch_inputs (s : State) (c : Bool) (t : Word) : (s.branch c t).inputs = s.inputs := by cases c <;> rfl
@[simp] theorem branch_draws (s : State) (c : Bool) (t : Word) : (s.branch c t).draws = s.draws := by cases c <;> rfl
@[simp] theorem branch_cfg (s : State) (c : Bool) (t : Word) : (s.branch c t).cfg = s.cfg := by cases c <;> rfl

/-! ### Reading registers -/

@[simp] theorem get8_a (s : State) : s.get8 .a = s.a := rfl
@[simp] theorem get8_b (s : State) : s.get8 .b = s.b := rfl
@[simp] theorem get16_d (s : State) : s.get16 .d = s.d := rfl
@[simp] theorem get16_x (s : State) : s.get16 .x = s.x := rfl
@[simp] theorem get16_y (s : State) : s.get16 .y = s.y := rfl
@[simp] theorem get16_sp (s : State) : s.get16 .sp = s.sp := rfl
@[simp] theorem base_x (s : State) : s.base .x = s.x := rfl
@[simp] theorem base_y (s : State) : s.base .y = s.y := rfl
@[simp] theorem base_sp (s : State) : s.base .sp = s.sp := rfl
@[simp] theorem base_pc (s : State) : s.base .pc = s.pc := rfl
@[simp] theorem autoVal_x (s : State) : s.autoVal .x = s.x := rfl
@[simp] theorem autoVal_y (s : State) : s.autoVal .y = s.y := rfl
@[simp] theorem autoVal_sp (s : State) : s.autoVal .sp = s.sp := rfl
@[simp] theorem reg_a (s : State) : s.reg .a = s.a.setWidth 16 := rfl
@[simp] theorem reg_b (s : State) : s.reg .b = s.b.setWidth 16 := rfl
@[simp] theorem reg_x (s : State) : s.reg .x = s.x := rfl
@[simp] theorem reg_y (s : State) : s.reg .y = s.y := rfl
@[simp] theorem reg_sp (s : State) : s.reg .sp = s.sp := rfl

theorem d_def (s : State) : s.d = mkWord s.a s.b := rfl

theorem flag_def (s : State) (f : Flag) : s.flag f = ccrFlag s.ccr f := rfl

/-! ### Flags -/

/-- Reading a flag of a CCR value in which one flag was replaced (R37). -/
theorem ccrFlag_ccrPut (c : Byte) (f g : Flag) (v : Bool) :
    ccrFlag (ccrPut c f v) g = if g = f then v else ccrFlag c g := by
  cases f <;> cases g <;> cases v <;> simp [ccrFlag, ccrPut, Flag.pos]

@[simp] theorem flag_putFlag (s : State) (f g : Flag) (v : Bool) :
    (s.putFlag f v).flag g = if g = f then v else s.flag g := ccrFlag_ccrPut s.ccr f g v

@[simp] theorem flag_putNZV (s : State) (n z v : Bool) (g : Flag) :
    (s.putNZV n z v).flag g = if g = .v then v else if g = .z then z else if g = .n then n else s.flag g := by
  simp [State.putNZV]

@[simp] theorem flag_putNZVC (s : State) (n z v c : Bool) (g : Flag) :
    (s.putNZVC n z v c).flag g =
      if g = .c then c else if g = .v then v else if g = .z then z else if g = .n then n else s.flag g := by
  simp [State.putNZVC]

@[simp] theorem flag_logicFlags {w : Nat} (s : State) (r : BitVec w) (g : Flag) :
    (s.logicFlags r).flag g = if g = .v then false else if g = .z then r == 0 else if g = .n then r.msb else s.flag g := by
  simp [State.logicFlags]

@[simp] theorem flag_aluFlags {w : Nat} (s : State) (q : Alu w) (g : Flag) :
    (s.aluFlags q).flag g =
      if g = .c then q.c else if g = .v then q.v else if g = .z then q.z else if g = .n then q.n else s.flag g := by
  simp [State.aluFlags]

@[simp] theorem flag_addFlags (s : State) (p q : Byte) (c : Bool) (g : Flag) :
    (s.addFlags p q c).flag g =
      if g = .c then (add8 p q c).c else if g = .v then (add8 p q c).v else if g = .z then (add8 p q c).z
      else if g = .n then (add8 p q c).n else if g = .h then add8H p q c else s.flag g := by
  simp [State.addFlags]

@[simp] theorem flag_clearFlags (s : State) (g : Flag) :
    s.clearFlags.flag g =
      if g = .c then false else if g = .v then false else if g = .z then true else if g = .n then false else s.flag g := by
  simp [State.clearFlags]

@[simp] theorem flag_testFlags (s : State) (v : Byte) (g : Flag) :
    (s.testFlags v).flag g =
      if g = .c then false else if g = .v then false else if g = .z then v == 0 else if g = .n then v.msb
      else s.flag g := by
  simp [State.testFlags]

/-- What `LoadCCR` does to a bit (R47): X only stays set if it was, every other bit is the loaded one. -/
theorem ccrFlag_ccrLoad (c v : Byte) (g : Flag) :
    ccrFlag (ccrLoad c v) g = if g = .x then ccrFlag c .x && ccrFlag v .x else ccrFlag v g := by
  cases g <;> simp [ccrFlag, ccrLoad, Flag.pos]

@[simp] theorem flag_loadCcr (s : State) (v : Byte) (g : Flag) :
    (s.loadCcr v).flag g = if g = .x then s.flag .x && ccrFlag v .x else ccrFlag v g := ccrFlag_ccrLoad s.ccr v g

@[simp] theorem flag_andCcr (s : State) (v : Byte) (g : Flag) : (s.andCcr v).flag g = (s.flag g && ccrFlag v g) := by
  cases g <;> simp [State.flag, ccrFlag, State.andCcr, Flag.pos]

@[simp] theorem flag_orCcr (s : State) (v : Byte) (g : Flag) :
    (s.orCcr v).flag g = if g = .x then s.flag .x else (s.flag g || ccrFlag v g) := by
  cases g <;> simp [State.flag, ccrFlag, State.orCcr, Flag.pos]

@[simp] theorem flag_setD (s : State) (v : Word) (g : Flag) : (s.setD v).flag g = s.flag g := rfl
@[simp] theorem flag_jump (s : State) (t : Word) (g : Flag) : (s.jump t).flag g = s.flag g := rfl
@[simp] theorem flag_store (s : State) (k : Word) (v : Byte) (g : Flag) : (s.store k v).flag g = s.flag g := rfl
@[simp] theorem flag_drawWord (s : State) (g : Flag) : (s.drawWord.2).flag g = s.flag g := rfl
@[simp] theorem flag_drawByte (s : State) (g : Flag) : (s.drawByte.2).flag g = s.flag g := rfl
@[simp] theorem flag_drawBit (s : State) (g : Flag) : (s.drawBit.2).flag g = s.flag g := rfl
@[simp] theorem flag_advance (s : State) (n : Nat) (g : Flag) : (s.advance n).flag g = s.flag g := rfl
@[simp] theorem flag_set8 (s : State) (r : Reg8) (v : Byte) (g : Flag) : (s.set8 r v).flag g = s.flag g := by cases r <;> rfl
@[simp] theorem flag_set16 (s : State) (r : Reg16) (v : Word) (g : Flag) : (s.set16 r v).flag g = s.flag g := by cases r <;> rfl
@[simp] theorem flag_setAuto (s : State) (r : AutoReg) (v : Word) (g : Flag) : (s.setAuto r v).flag g = s.flag g := by cases r <;> rfl
@[simp] theorem flag_branch (s : State) (c : Bool) (t : Word) (g : Flag) : (s.branch c t).flag g = s.flag g := by cases c <;> rfl

end Sys2Proof.Machine
end

