-- ==== Sys2Proof/Laws/Ops.lean ====
section
/-! SUPPORT. For every shared operation over memory, the stack and exceptions, what it can do, said once: what it answers on
plain memory, and what it leaves alone on any map. -/

namespace Sys2Proof.Machine

/-! ## Results -/

theorem bind_ok_iff {α β : Type} (x : Res α) (f : α → Res β) (b : β) :
    (x >>= f) = .ok b ↔ ∃ a, x = .ok a ∧ f a = .ok b := by
  cases x with
  | error e => exact ⟨nofun, nofun⟩
  | ok a => exact ⟨fun h => ⟨a, rfl, h⟩, fun ⟨_, h, h'⟩ => Except.ok.inj h ▸ h'⟩

@[simp] theorem ok_bind {α β : Type} (a : α) (f : α → Res β) : ((Except.ok a : Res α) >>= f) = f a := rfl

@[simp] theorem error_bind {α β : Type} (e : Stop) (f : α → Res β) : ((Except.error e : Res α) >>= f) = .error e := rfl

@[simp] theorem outcome_ok (s : State) : outcome (.ok s) = .next s := rfl

@[simp] theorem outcome_fault (f : Fault) : outcome (.error (.fault f)) = .fault f := rfl

@[simp] theorem outcome_refused (r : Refusal) : outcome (.error (.refused r)) = .refused r := rfl

theorem outcome_next_iff (r : Res State) (t : State) : outcome r = .next t ↔ r = .ok t := by
  cases r with
  | ok s => exact ⟨fun h => congrArg _ (Host.Outcome.next.inj h), fun h => congrArg _ (Except.ok.inj h)⟩
  | error e => cases e <;> exact ⟨nofun, nofun⟩

@[simp] theorem refuseIf_true (r : Refusal) (go : Res State) : refuseIf true r go = .error (.refused r) := rfl

@[simp] theorem refuseIf_false (r : Refusal) (go : Res State) : refuseIf false r go = go := rfl

theorem refuseIf_ok_iff (bad : Bool) (r : Refusal) (go : Res State) (t : State) :
    refuseIf bad r go = .ok t ↔ bad = false ∧ go = .ok t := by
  cases bad
  · exact ⟨fun h => ⟨rfl, h⟩, And.right⟩
  · exact ⟨nofun, nofun⟩

/-! ## Words -/

@[simp] theorem hiByte_mkWord (h l : Byte) : hiByte (mkWord h l) = h := by
  apply BitVec.eq_of_getLsbD_eq
  intro i hi
  simp only [hiByte, mkWord, BitVec.getLsbD_extractLsb', BitVec.getLsbD_append, hi, decide_true, Bool.true_and]
  simp

@[simp] theorem loByte_mkWord (h l : Byte) : loByte (mkWord h l) = l := by
  apply BitVec.eq_of_getLsbD_eq
  intro i hi
  simp only [loByte, mkWord, BitVec.getLsbD_extractLsb', Nat.zero_add, BitVec.getLsbD_append, hi, decide_true, Bool.true_and,
    if_true]

@[simp] theorem mkWord_hiByte_loByte (w : Word) : mkWord (hiByte w) (loByte w) = w := by
  simp only [hiByte, loByte, mkWord]
  apply BitVec.eq_of_getLsbD_eq
  intro i hi
  simp only [BitVec.getLsbD_append, BitVec.getLsbD_extractLsb']
  by_cases h : i < 8
  · simp [h]
  · have : i - 8 < 8 := by omega
    simp [h, this, show 8 + (i - 8) = i by omega]

/-! ## The memory map -/

/-- `MemMap` is in `cfg` only. -/
theorem admits_congr (s t : State) (k : Access) (a : Word) (h : t.cfg = s.cfg) : t.admits k a = s.admits k a := by
  simp only [State.admits, State.region, h]

theorem isDevice_congr (s t : State) (a : Word) (h : t.cfg = s.cfg) : t.isDevice a = s.isDevice a := by
  simp only [State.isDevice, State.region, h]

theorem PlainAt_congr (s t : State) (k : Access) (a : Word) (h : t.cfg = s.cfg) : t.PlainAt k a ↔ s.PlainAt k a := by
  simp only [State.PlainAt, admits_congr s t k a h, isDevice_congr s t a h]

theorem AllPlain_congr (s t : State) (h : t.cfg = s.cfg) : t.AllPlain ↔ s.AllPlain := by
  simp only [State.AllPlain, PlainAt_congr s t _ _ h]

/-! ## Reads -/

/-- Everything `read8` can answer (R63). -/
theorem read8_ok_iff (s : State) (a : Word) (v : Byte) (t : State) :
    s.read8 a = .ok (v, t) ↔ s.admits .read a = true ∧
      ((s.isDevice a = false ∧ v = s.byteAt a ∧ t = s) ∨
        (s.isDevice a = true ∧ v = loByte (Config.freeValue s.draws) ∧ t = { s with draws := s.draws + 1 })) := by
  unfold State.read8
  cases s.admits .read a
  · exact ⟨nofun, nofun⟩
  cases s.isDevice a <;> simp only [State.drawByte, if_true, Bool.false_eq_true, if_false, Except.ok.injEq, Prod.mk.injEq,
    true_and, false_and, or_false, false_or, reduceCtorEq] <;> exact ⟨fun h => ⟨h.1.symm, h.2.symm⟩, fun h => ⟨h.1.symm, h.2.symm⟩⟩

/-- A read of plain memory. -/
theorem read8_plain (s : State) (a : Word) (h : s.PlainAt .read a) : s.read8 a = .ok (s.byteAt a, s) :=
  (read8_ok_iff s a _ _).2 ⟨h.1, .inl ⟨h.2, rfl, rfl⟩⟩

/-- A read that `MemMap` does not admit. -/
theorem read8_unadmitted (s : State) (a : Word) (h : s.admits .read a = false) :
    s.read8 a = .error (.fault (.unadmittedRead a)) := by
  simp [State.read8, h]

/-- A read changes nothing but the count of free values. -/
theorem read8_frame (s : State) (a : Word) (v : Byte) (t : State) (h : s.read8 a = .ok (v, t)) :
    t = { s with draws := t.draws } := by
  rcases (read8_ok_iff s a v t).1 h with ⟨-, ⟨-, -, rfl⟩ | ⟨-, -, rfl⟩⟩ <;> rfl

/-- A read of two plain bytes (R64, R68). -/
theorem read16_plain (s : State) (a : Word) (h : s.PlainAt .read a) (h' : s.PlainAt .read (a + 1)) :
    s.read16 a = .ok (s.wordAt a, s) := by
  simp only [State.read16, read8_plain s a h, read8_plain s (a + 1) h', ok_bind, State.wordAt]

/-- A read changes nothing but the count of free values. -/
theorem read16_frame (s : State) (a : Word) (v : Word) (t : State) (h : s.read16 a = .ok (v, t)) :
    t = { s with draws := t.draws } := by
  simp only [State.read16, bind_ok_iff] at h
  obtain ⟨⟨hi, s1⟩, h1, ⟨lo, s2⟩, h2, h3⟩ := h
  cases h3
  have e1 := read8_frame _ _ _ _ h1
  have e2 := read8_frame _ _ _ _ h2
  rw [e2, e1]

/-! ## Writes -/

/-- Everything `write8` can answer (R63). -/
theorem write8_ok_iff (s : State) (a : Word) (v : Byte) (t : State) :
    s.write8 a v = .ok t ↔ s.admits .write a = true ∧ t = if s.isDevice a then s else s.store a v := by
  unfold State.write8
  cases s.admits .write a
  · exact ⟨nofun, nofun⟩
  · exact ⟨fun h => ⟨rfl, (Except.ok.inj h).symm⟩, fun h => congrArg _ h.2.symm⟩

/-- A write to plain memory. -/
theorem write8_plain (s : State) (a : Word) (v : Byte) (h : s.PlainAt .write a) : s.write8 a v = .ok (s.store a v) :=
  (write8_ok_iff s a v _).2 ⟨h.1, by simp [h.2]⟩

/-- A write that `MemMap` does not admit. -/
theorem write8_unadmitted (s : State) (a : Word) (v : Byte) (h : s.admits .write a = false) :
    s.write8 a v = .error (.fault (.unadmittedWrite a)) := by
  simp [State.write8, h]

/-- What a write leaves alone on any map: every register and flag, and every byte but its own. -/
theorem write8_frame (s : State) (a : Word) (v : Byte) (t : State) (h : s.write8 a v = .ok t) :
    t = { s with mem := t.mem, stale := t.stale } ∧ (∀ b, b ≠ a → t.byteAt b = s.byteAt b) ∧ (s.Inv → t.Inv) := by
  obtain ⟨-, rfl⟩ := (write8_ok_iff s a v t).1 h
  split
  · exact ⟨rfl, fun _ _ => rfl, id⟩
  · exact ⟨rfl, fun b hb => byteAt_store_ne s a b v hb, Inv_store s a v⟩

/-- A write to two plain bytes (R64, R68). -/
theorem write16_plain (s : State) (a : Word) (v : Word) (h : s.PlainAt .write a) (h' : s.PlainAt .write (a + 1)) :
    s.write16 a v = .ok ((s.store a (hiByte v)).store (a + 1) (loByte v)) := by
  have h'' : (s.store a (hiByte v)).PlainAt .write (a + 1) := (PlainAt_congr s _ _ _ rfl).2 h'
  simp only [State.write16, write8_plain s a _ h, ok_bind, write8_plain _ _ _ h'']

/-- What a 16-bit write leaves alone on any map. -/
theorem write16_frame (s : State) (a : Word) (v : Word) (t : State) (h : s.write16 a v = .ok t) :
    t = { s with mem := t.mem, stale := t.stale } ∧ (∀ b, b ≠ a → b ≠ a + 1 → t.byteAt b = s.byteAt b) ∧
      (s.Inv → t.Inv) := by
  simp only [State.write16, bind_ok_iff] at h
  obtain ⟨s1, h1, h2⟩ := h
  obtain ⟨e1, m1, i1⟩ := write8_frame _ _ _ _ h1
  obtain ⟨e2, m2, i2⟩ := write8_frame _ _ _ _ h2
  refine ⟨?_, fun b hb hb' => (m2 b hb').trans (m1 b hb), fun h => i2 (i1 h)⟩
  rw [e2, e1]

/-! ## The stack -/

theorem push8_plain (s : State) (v : Byte) (h : s.PlainAt .write (s.sp - 1)) :
    s.push8 v = .ok ({ s with sp := s.sp - 1 }.store (s.sp - 1) v) :=
  write8_plain { s with sp := s.sp - 1 } (s.sp - 1) v h

theorem push16_plain (s : State) (v : Word) (h : s.PlainAt .write (s.sp - 2)) (h' : s.PlainAt .write (s.sp - 2 + 1)) :
    s.push16 v = .ok (({ s with sp := s.sp - 2 }.store (s.sp - 2) (hiByte v)).store (s.sp - 2 + 1) (loByte v)) :=
  write16_plain { s with sp := s.sp - 2 } (s.sp - 2) v h h'

/-- What a push leaves alone on any map. -/
theorem push8_frame (s : State) (v : Byte) (t : State) (h : s.push8 v = .ok t) :
    t = { s with sp := s.sp - 1, mem := t.mem, stale := t.stale } ∧ (∀ b, b ≠ s.sp - 1 → t.byteAt b = s.byteAt b) ∧
      (s.Inv → t.Inv) := by
  obtain ⟨e, m, i⟩ := write8_frame _ _ _ _ h
  exact ⟨e, m, fun h => i ⟨h.mem, h.stale⟩⟩

/-- What a push leaves alone on any map. -/
theorem push16_frame (s : State) (v : Word) (t : State) (h : s.push16 v = .ok t) :
    t = { s with sp := s.sp - 2, mem := t.mem, stale := t.stale } ∧
      (∀ b, b ≠ s.sp - 2 → b ≠ s.sp - 2 + 1 → t.byteAt b = s.byteAt b) ∧ (s.Inv → t.Inv) := by
  obtain ⟨e, m, i⟩ := write16_frame _ _ _ _ h
  exact ⟨e, m, fun h => i ⟨h.mem, h.stale⟩⟩

theorem pull8_plain (s : State) (h : s.PlainAt .read s.sp) :
    s.pull8 = .ok (s.byteAt s.sp, { s with sp := s.sp + 1 }) := by
  simp only [State.pull8, read8_plain s _ h, ok_bind]

theorem pull16_plain (s : State) (h : s.PlainAt .read s.sp) (h' : s.PlainAt .read (s.sp + 1)) :
    s.pull16 = .ok (s.wordAt s.sp, { s with sp := s.sp + 2 }) := by
  simp only [State.pull16, read16_plain s _ h h', ok_bind]

/-- What a pull leaves alone on any map. -/
theorem pull8_frame (s : State) (v : Byte) (t : State) (h : s.pull8 = .ok (v, t)) :
    t = { s with sp := s.sp + 1, draws := t.draws } := by
  simp only [State.pull8, bind_ok_iff] at h
  obtain ⟨⟨w, s1⟩, h1, h2⟩ := h
  have e1 := read8_frame _ _ _ _ h1
  cases h2
  rw [e1]

/-- What a pull leaves alone on any map. -/
theorem pull16_frame (s : State) (v : Word) (t : State) (h : s.pull16 = .ok (v, t)) :
    t = { s with sp := s.sp + 2, draws := t.draws } := by
  simp only [State.pull16, bind_ok_iff] at h
  obtain ⟨⟨w, s1⟩, h1, h2⟩ := h
  have e1 := read16_frame _ _ _ _ h1
  cases h2
  rw [e1]

/-! ## Exceptions -/

/-- Nothing in the frame of an exception reaches past its nine bytes: an address is one of `sp - 9 + k`, `k < 9`, or outside. -/
theorem pushFrame_frame (s : State) (t : State) (h : s.pushFrame = .ok t) :
    t = { s with sp := s.sp - 9, mem := t.mem, stale := t.stale } ∧ s.SameMemBut t (s.sp - 9) 9 ∧ (s.Inv → t.Inv) := by
  simp only [State.pushFrame, bind_ok_iff] at h
  obtain ⟨s1, h1, s2, h2, s3, h3, s4, h4, s5, h5, h6⟩ := h
  obtain ⟨e1, m1, i1⟩ := push16_frame _ _ _ h1
  obtain ⟨e2, m2, i2⟩ := push16_frame _ _ _ h2
  obtain ⟨e3, m3, i3⟩ := push16_frame _ _ _ h3
  obtain ⟨e4, m4, i4⟩ := write8_frame _ _ _ _ h4
  obtain ⟨e5, m5, i5⟩ := write8_frame _ _ _ _ h5
  obtain ⟨e6, m6, i6⟩ := push8_frame _ _ _ h6
  have p1 : s1.sp = s.sp - 2 := by rw [e1]
  have p2 : s2.sp = s1.sp - 2 := by rw [e2]
  have p3 : s3.sp = s2.sp - 2 := by rw [e3]
  have p4 : s4.sp = s3.sp - 2 := by rw [e4]
  have p5 : s5.sp = s4.sp := by rw [e5]
  refine ⟨?_, ?_, fun h => i6 (i5 (i4 ?_))⟩
  · have q : s.sp - 9 = s5.sp - 1 := by
      rw [p5, p4, p3, p2, p1]
      bv_omega
    rw [q, e6, e5, e4, e3, e2, e1]
  · intro a ha
    have ha' : ∀ k : Nat, k < 9 → a ≠ s.sp - 9 + BitVec.ofNat 16 k := by
      rintro k hk rfl
      have e : s.sp - 9 + BitVec.ofNat 16 k - (s.sp - 9) = BitVec.ofNat 16 k := by bv_omega
      rw [e, BitVec.toNat_ofNat] at ha
      omega
    rw [m6 a (fun h => ha' 0 (by omega) (by rw [h, p5, p4, p3, p2, p1]; bv_omega)),
      m5 a (fun h => ha' 2 (by omega) (by rw [h, p4, p3, p2, p1]; bv_omega)),
      m4 a (fun h => ha' 1 (by omega) (by rw [h, p3, p2, p1]; bv_omega))]
    rw [show ({ s3 with sp := s3.sp - 2 } : State).byteAt a = s3.byteAt a from rfl,
      m3 a (fun h => ha' 3 (by omega) (by rw [h, p2, p1]; bv_omega))
        (fun h => ha' 4 (by omega) (by rw [h, p2, p1]; bv_omega)),
      m2 a (fun h => ha' 5 (by omega) (by rw [h, p1]; bv_omega)) (fun h => ha' 6 (by omega) (by rw [h, p1]; bv_omega)),
      m1 a (fun h => ha' 7 (by omega) (by rw [h]; bv_omega)) (fun h => ha' 8 (by omega) (by rw [h]; bv_omega))]
  · exact ⟨(i3 (i2 (i1 h))).mem, (i3 (i2 (i1 h))).stale⟩

end Sys2Proof.Machine
end

