-- ==== Sys2Proof/Laws/Exceptions.lean ====
section
/-! SUPPORT. What the shared operations that write memory leave there, and what taking an exception and returning from one
do, said once (R20, R80, R421, R422, R448, R449, R480). -/

namespace Sys2Proof.Machine

/-! ## Bytes after a write to plain memory -/

/-- Reading one byte after `store`, in the canonical form. -/
theorem byteAt_store (s : State) (a b : Word) (v : Byte) (h : Memory.wf s.mem) :
    (s.store a v).byteAt b = if b = a then v else s.byteAt b := by
  split
  · rename_i e
    rw [e, byteAt_store_self s a v h]
  · rename_i e
    exact byteAt_store_ne s a b v e

/-- `store` keeps the canonical form. -/
theorem wf_store (s : State) (a : Word) (v : Byte) (h : Memory.wf s.mem) : Memory.wf (s.store a v).mem :=
  Memory.wf_write s.mem a.toNat v a.isLt h

/-- A byte written to plain memory is there, and nothing else changes. -/
theorem write8_wrote (s : State) (a : Word) (v : Byte) (hw : Memory.wf s.mem) (h : s.PlainAt .write a) :
    ∃ t, s.write8 a v = .ok t ∧ t = { s with mem := t.mem, stale := t.stale } ∧ Memory.wf t.mem ∧
      ∀ b, t.byteAt b = if b = a then v else s.byteAt b :=
  ⟨_, write8_plain s a v h, rfl, wf_store s a v hw, fun b => byteAt_store s a b v hw⟩

/-- A word written to plain memory is there, high byte first, and nothing else changes. -/
theorem write16_wrote (s : State) (a : Word) (v : Word) (hw : Memory.wf s.mem) (h : s.PlainAt .write a)
    (h' : s.PlainAt .write (a + 1)) :
    ∃ t, s.write16 a v = .ok t ∧ t = { s with mem := t.mem, stale := t.stale } ∧ Memory.wf t.mem ∧
      ∀ b, t.byteAt b = if b = a + 1 then loByte v else if b = a then hiByte v else s.byteAt b :=
  ⟨_, write16_plain s a v h h', rfl, wf_store _ _ _ (wf_store s a _ hw), fun b =>
    (byteAt_store _ _ b _ (wf_store s a _ hw)).trans (ite_congr rfl (fun _ => rfl) fun _ => byteAt_store s a b _ hw)⟩

/-- A byte pushed onto plain memory. -/
theorem push8_wrote (s : State) (v : Byte) (hw : Memory.wf s.mem) (h : s.PlainAt .write (s.sp - 1)) :
    ∃ t, s.push8 v = .ok t ∧ t = { s with sp := s.sp - 1, mem := t.mem, stale := t.stale } ∧ Memory.wf t.mem ∧
      ∀ b, t.byteAt b = if b = s.sp - 1 then v else s.byteAt b :=
  write8_wrote { s with sp := s.sp - 1 } (s.sp - 1) v hw h

/-- A word pushed onto plain memory. -/
theorem push16_wrote (s : State) (v : Word) (hw : Memory.wf s.mem) (h : s.PlainAt .write (s.sp - 2))
    (h' : s.PlainAt .write (s.sp - 2 + 1)) :
    ∃ t, s.push16 v = .ok t ∧ t = { s with sp := s.sp - 2, mem := t.mem, stale := t.stale } ∧ Memory.wf t.mem ∧
      ∀ b, t.byteAt b = if b = s.sp - 2 + 1 then loByte v else if b = s.sp - 2 then hiByte v else s.byteAt b :=
  write16_wrote { s with sp := s.sp - 2 } (s.sp - 2) v hw h h'

/-! ## The frame -/

theorem PlainAt_of_PlainFrom (s : State) (k : Access) (a b : Word) (n j : Nat) (h : s.PlainFrom k a n) (hj : j < n)
    (e : b = a + BitVec.ofNat 16 j) : s.PlainAt k b := e ▸ h j hj

/-- The addresses of the frame, counted from its lowest. -/
theorem frame_down (p : Word) :
    p + 9 - 2 = p + 7 ∧ p + 7 - 2 = p + 5 ∧ p + 5 - 2 = p + 3 ∧ p + 3 - 2 = p + 1 ∧ p + 1 - 1 = p := by
  refine ⟨?_, ?_, ?_, ?_, ?_⟩ <;> bv_omega

/-- The addresses of the frame, counted from its lowest. -/
theorem frame_up (p : Word) :
    p + 1 + 1 = p + 2 ∧ p + 3 + 1 = p + 4 ∧ p + 5 + 1 = p + 6 ∧ p + 7 + 1 = p + 8 ∧ p = p + BitVec.ofNat 16 0 := by
  refine ⟨?_, ?_, ?_, ?_, ?_⟩ <;> bv_omega

theorem frame_distinct (p : Word) (i j : Nat) (hi : i < 9) (hj : j < 9) (h : i ≠ j) :
    p + BitVec.ofNat 16 i ≠ p + BitVec.ofNat 16 j := by
  intro e
  have := congrArg BitVec.toNat e
  simp only [BitVec.toNat_add, BitVec.toNat_ofNat] at this
  omega

/-- Pushing the frame on plain memory (R80, R421): where it lies, what it holds, and nothing else changes. -/
theorem pushFrame_plain (s : State) (hw : Memory.wf s.mem) (h : s.PlainFrom .write (s.sp - 9) 9) :
    ∃ t, s.pushFrame = .ok t ∧ t = { s with sp := s.sp - 9, mem := t.mem, stale := t.stale } ∧
      t.FrameAt (s.sp - 9) s ∧ s.SameMemBut t (s.sp - 9) 9 ∧ Memory.wf t.mem := by
  generalize hp : s.sp - 9 = p at h
  obtain ⟨d7, d5, d3, d1, d0⟩ := frame_down p
  obtain ⟨u2, u4, u6, u8, u0⟩ := frame_up p
  have hs : s.sp = p + 9 := by rw [← hp]; exact (BitVec.sub_add_cancel s.sp 9).symm
  have pw : ∀ (u : State) (b : Word) (j : Nat), u.cfg = s.cfg → j < 9 → b = p + BitVec.ofNat 16 j →
      u.PlainAt .write b := fun u b j hu hj e =>
    (PlainAt_congr s u .write b hu).2 (PlainAt_of_PlainFrom s .write _ b 9 j h hj e)
  have q1 : s.sp - 2 = p + 7 := by rw [hs, d7]
  have q1' : s.sp - 2 + 1 = p + 8 := by rw [q1, u8]
  obtain ⟨s1, r1, e1, w1, m1⟩ := push16_wrote s s.pc hw (pw _ _ 7 rfl (by decide) q1) (pw _ _ 8 rfl (by decide) q1')
  have p1 : s1.sp = p + 7 := (congrArg State.sp e1).trans q1
  have q2 : s1.sp - 2 = p + 5 := by rw [p1, d5]
  have q2' : s1.sp - 2 + 1 = p + 6 := by rw [q2, u6]
  have c1 : s1.cfg = s.cfg := (congrArg State.cfg e1).trans rfl
  obtain ⟨s2, r2, e2, w2, m2⟩ := push16_wrote s1 s1.y w1 (pw _ _ 5 c1 (by decide) q2) (pw _ _ 6 c1 (by decide) q2')
  have p2 : s2.sp = p + 5 := (congrArg State.sp e2).trans q2
  have q3 : s2.sp - 2 = p + 3 := by rw [p2, d3]
  have q3' : s2.sp - 2 + 1 = p + 4 := by rw [q3, u4]
  have c2 : s2.cfg = s.cfg := (congrArg State.cfg e2).trans c1
  obtain ⟨s3, r3, e3, w3, m3⟩ := push16_wrote s2 s2.x w2 (pw _ _ 3 c2 (by decide) q3) (pw _ _ 4 c2 (by decide) q3')
  have p3 : s3.sp = p + 3 := (congrArg State.sp e3).trans q3
  have q4 : s3.sp - 2 = p + 1 := by rw [p3, d1]
  have c3 : s3.cfg = s.cfg := (congrArg State.cfg e3).trans c2
  obtain ⟨s4, r4, e4, w4, m4⟩ := write8_wrote { s3 with sp := s3.sp - 2 } (s3.sp - 2) s3.b w3 (pw _ _ 1 c3 (by decide) q4)
  have p4 : s4.sp = p + 1 := (congrArg State.sp e4).trans q4
  have q5 : s4.sp + 1 = p + 2 := by rw [p4, u2]
  have c4 : s4.cfg = s.cfg := (congrArg State.cfg e4).trans c3
  obtain ⟨s5, r5, e5, w5, m5⟩ := write8_wrote s4 (s4.sp + 1) s4.a w4 (pw _ _ 2 c4 (by decide) q5)
  have p5 : s5.sp = p + 1 := (congrArg State.sp e5).trans p4
  have q6 : s5.sp - 1 = p := by rw [p5, d0]
  have q6' : s5.sp - 1 = p + BitVec.ofNat 16 0 := by rw [q6]; exact u0
  have c5 : s5.cfg = s.cfg := (congrArg State.cfg e5).trans c4
  obtain ⟨s6, r6, e6, w6, m6⟩ := push8_wrote s5 s5.ccr w5 (pw _ _ 0 c5 (by decide) q6')
  have run : s.pushFrame = .ok s6 := by
    unfold State.pushFrame
    rw [r1, ok_bind, r2, ok_bind, r3, ok_bind]
    dsimp only
    rw [r4, ok_bind, r5, ok_bind, r6]
  obtain ⟨e, m, -⟩ := pushFrame_frame s s6 run
  rw [hp] at m e
  have f1 : s1.y = s.y := by rw [e1]
  have f2 : s2.x = s.x := by rw [e2, e1]
  have f3 : s3.b = s.b := by rw [e3, e2, e1]
  have f4 : s4.a = s.a := by rw [e4, e3, e2, e1]
  have f5 : s5.ccr = s.ccr := by rw [e5, e4, e3, e2, e1]
  rw [q6, f5] at m6
  rw [q5, f4] at m5
  rw [q4, f3] at m4
  rw [q3', q3, f2] at m3
  rw [q2', q2, f1] at m2
  rw [q1', q1] at m1
  have m4' : ∀ b, s4.byteAt b = if b = p + 1 then s.b else s3.byteAt b := m4
  have rd : ∀ b, s6.byteAt b = if b = p then s.ccr else if b = p + 2 then s.a else if b = p + 1 then s.b
      else if b = p + 4 then loByte s.x else if b = p + 3 then hiByte s.x else if b = p + 6 then loByte s.y
      else if b = p + 5 then hiByte s.y else if b = p + 8 then loByte s.pc else if b = p + 7 then hiByte s.pc
      else s.byteAt b := fun b => by rw [m6, m5, m4', m3, m2, m1]
  refine ⟨s6, run, e, ⟨?_, ?_, ?_, ?_, ?_, ?_⟩, m, w6⟩
  · rw [rd, if_pos rfl]
  · rw [rd]
    simp
  · rw [rd]
    simp
  · rw [State.wordAt, u4, rd, rd]
    simp
  · rw [State.wordAt, u6, rd, rd]
    simp
  · rw [State.wordAt, u8, rd, rd]
    simp

/-! ## Taking an exception -/

/-- CCR after an entry: I set, and X for an X-class source (R421, R448). -/
def entryCcr (ccr : Byte) (setX : Bool) : Byte := if setX then ccrPut (ccrPut ccr .i true) .x true else ccrPut ccr .i true

theorem ccrFlag_entryCcr (ccr : Byte) (setX : Bool) (f : Flag) :
    ccrFlag (entryCcr ccr setX) f = if f = .i then true else if f = .x then setX || ccrFlag ccr .x else ccrFlag ccr f := by
  cases setX <;> cases f <;> simp [entryCcr, ccrFlag_ccrPut]

/-- What is left of an entry once the frame is pushed. -/
theorem takeException_eq (s : State) (vector : Word) (frame setX : Bool) :
    s.takeException vector frame setX = ((if frame then s.pushFrame else .ok s) >>= fun u =>
      (State.read16 { u with ccr := entryCcr u.ccr setX } vector) >>= fun r =>
        .ok ({ r.2 with stopped := false }.jump r.1)) := by
  unfold State.takeException
  cases frame
  · cases setX <;> rfl
  · simp only [if_true]
    cases s.pushFrame with
    | error e => rfl
    | ok u => cases setX <;> rfl

/-- Entry with a frame, on plain memory (R421, R441, R448). -/
theorem takeException_plain (s : State) (vector : Word) (setX : Bool) (hw : Memory.wf s.mem)
    (h : s.PlainFrom .write (s.sp - 9) 9) (hv : s.PlainFrom .read vector 2) :
    ∃ t, s.takeException vector true setX = .ok t ∧
      t = { s with sp := s.sp - 9, pc := t.wordAt vector, ccr := entryCcr s.ccr setX, mem := t.mem, stale := [],
                   stopped := false } ∧
      t.FrameAt (s.sp - 9) s ∧ s.SameMemBut t (s.sp - 9) 9 ∧ Memory.wf t.mem := by
  obtain ⟨u, r, e, f, m, w⟩ := pushFrame_plain s hw h
  have hc : u.cfg = s.cfg := (congrArg State.cfg e).trans rfl
  have hcc : u.ccr = s.ccr := (congrArg State.ccr e).trans rfl
  have h0 : ({ u with ccr := entryCcr u.ccr setX } : State).PlainAt .read vector :=
    (PlainAt_congr s _ _ _ hc).2 (PlainAt_of_PlainFrom s .read vector vector 2 0 hv (by decide) (by simp))
  have h1 : ({ u with ccr := entryCcr u.ccr setX } : State).PlainAt .read (vector + 1) :=
    (PlainAt_congr s _ _ _ hc).2 (PlainAt_of_PlainFrom s .read vector _ 2 1 hv (by decide) rfl)
  refine ⟨{ u with pc := u.wordAt vector, ccr := entryCcr u.ccr setX, stale := [], stopped := false }, ?_, ?_, ?_, m, w⟩
  · rw [takeException_eq, if_pos rfl, r, ok_bind, read16_plain _ _ h0 h1, ok_bind]
    rfl
  · rw [hcc, e]
    rfl
  · exact ⟨f.ccr, f.b, f.a, f.x, f.y, f.rtn⟩

/-- Entry without a frame, on plain memory: the wake-up from the stopped state (R449). -/
theorem takeException_noFrame (s : State) (vector : Word) (setX : Bool) (hv : s.PlainFrom .read vector 2) :
    s.takeException vector false setX =
      .ok { s with pc := s.wordAt vector, ccr := entryCcr s.ccr setX, stale := [], stopped := false } := by
  have h0 : ({ s with ccr := entryCcr s.ccr setX } : State).PlainAt .read vector :=
    PlainAt_of_PlainFrom s .read vector vector 2 0 hv (by decide) (by simp)
  have h1 : ({ s with ccr := entryCcr s.ccr setX } : State).PlainAt .read (vector + 1) :=
    PlainAt_of_PlainFrom s .read vector _ 2 1 hv (by decide) rfl
  rw [takeException_eq, if_neg (by decide), ok_bind, read16_plain _ _ h0 h1, ok_bind]
  rfl

/-- What an entry leaves alone on any map. -/
theorem takeException_frame (s : State) (vector : Word) (frame setX : Bool) (t : State)
    (h : s.takeException vector frame setX = .ok t) :
    t = { s with sp := t.sp, pc := t.pc, ccr := entryCcr s.ccr setX, mem := t.mem, stale := [], stopped := false,
                 draws := t.draws } ∧ (s.Inv → t.Inv) := by
  rw [takeException_eq, bind_ok_iff] at h
  obtain ⟨u, hu, h⟩ := h
  rw [bind_ok_iff] at h
  obtain ⟨⟨v, u'⟩, hr, h⟩ := h
  cases h
  have e' := read16_frame _ _ _ _ hr
  cases frame with
  | false =>
    cases hu
    rw [e']
    exact ⟨rfl, fun h => ⟨h.mem, List.nodup_nil⟩⟩
  | true =>
    obtain ⟨e, -, i⟩ := pushFrame_frame s u hu
    have hcc : u.ccr = s.ccr := (congrArg State.ccr e).trans rfl
    rw [e']
    refine ⟨?_, fun h => ⟨(i h).mem, List.nodup_nil⟩⟩
    simp only [hcc, State.jump]
    rw [e]

/-! ## Returning from an exception -/

/-- RTI on plain memory (R422). -/
theorem returnFromException_plain (s : State) (h : s.PlainFrom .read s.sp 9) :
    s.returnFromException = .ok { s with
      a := s.byteAt (s.sp + 2), b := s.byteAt (s.sp + 1), x := s.wordAt (s.sp + 3), y := s.wordAt (s.sp + 5),
      sp := s.sp + 9, pc := s.wordAt (s.sp + 7), ccr := ccrLoad s.ccr (s.byteAt s.sp), stale := [] } := by
  have pr : ∀ (b : Word) (j : Nat), j < 9 → b = s.sp + BitVec.ofNat 16 j → s.PlainAt .read b := fun b j hj e =>
    PlainAt_of_PlainFrom s .read _ b 9 j h hj e
  have pr' : ∀ (b : Word) (j : Nat), j < 9 → b = s.sp + BitVec.ofNat 16 j →
      (s.loadCcr (s.byteAt s.sp)).PlainAt .read b := pr
  obtain ⟨-, u4, u6, u8, -⟩ := frame_up s.sp
  unfold State.returnFromException
  simp only [read8_plain s s.sp (pr _ 0 (by decide) (by simp)), ok_bind,
    read8_plain _ (s.sp + 1) (pr' _ 1 (by decide) rfl), read8_plain _ (s.sp + 2) (pr' _ 2 (by decide) rfl),
    read16_plain _ (s.sp + 3) (pr' _ 3 (by decide) rfl) (pr' _ 4 (by decide) u4),
    read16_plain _ (s.sp + 5) (pr' _ 5 (by decide) rfl) (pr' _ 6 (by decide) u6),
    read16_plain _ (s.sp + 7) (pr' _ 7 (by decide) rfl) (pr' _ 8 (by decide) u8)]
  rfl

/-- What RTI leaves alone on any map; CCR is loaded through `LoadCCR`. -/
theorem returnFromException_frame (s t : State) (h : s.returnFromException = .ok t) :
    t = { s with a := t.a, b := t.b, x := t.x, y := t.y, sp := s.sp + 9, pc := t.pc, ccr := t.ccr, stale := [],
                 draws := t.draws } ∧ ∃ v, t.ccr = ccrLoad s.ccr v := by
  simp only [State.returnFromException, bind_ok_iff] at h
  obtain ⟨⟨v, s1⟩, h1, ⟨vb, s2⟩, h2, ⟨va, s3⟩, h3, ⟨vx, s4⟩, h4, ⟨vp, s5⟩, h5, ⟨vy, s6⟩, h6, h7⟩ := h
  cases h7
  have e1 := read8_frame _ _ _ _ h1
  have e2 := read8_frame _ _ _ _ h2
  have e3 := read8_frame _ _ _ _ h3
  have e4 := read16_frame _ _ _ _ h4
  have e5 := read16_frame _ _ _ _ h5
  have e6 := read16_frame _ _ _ _ h6
  rw [e6, e5, e4, e3, e2, e1]
  exact ⟨rfl, v, rfl⟩

/-! ## Reset -/

/-- Reset as an event on plain memory (R480, R481). -/
theorem resetEvent_plain (s : State) (h : s.PlainFrom .read s.cfg.resetVector 2) :
    s.resetEvent = .ok { s with
      a := s.cfg.resetRegs.a, b := s.cfg.resetRegs.b, x := s.cfg.resetRegs.x, y := s.cfg.resetRegs.y,
      sp := s.cfg.resetRegs.sp, ccr := s.cfg.resetRegs.ccr, pc := s.wordAt s.cfg.resetVector, stopped := false,
      stale := [] } := by
  let k := s.cfg.resetRegs
  let s0 : State :=
    { s with a := k.a, b := k.b, x := k.x, y := k.y, sp := k.sp, ccr := k.ccr, stopped := false }
  have h0 : s0.PlainAt .read s.cfg.resetVector := PlainAt_of_PlainFrom s .read _ _ 2 0 h (by decide) (by simp)
  have h1 : s0.PlainAt .read (s.cfg.resetVector + 1) := PlainAt_of_PlainFrom s .read _ _ 2 1 h (by decide) rfl
  show (s0.read16 s.cfg.resetVector >>= fun r => .ok (r.2.jump r.1)) = _
  rw [read16_plain s0 _ h0 h1]
  rfl

/-- What a reset leaves alone on any map: memory, the inputs and the parameters. -/
theorem resetEvent_frame (s t : State) (h : s.resetEvent = .ok t) :
    t = { s with
      a := s.cfg.resetRegs.a, b := s.cfg.resetRegs.b, x := s.cfg.resetRegs.x, y := s.cfg.resetRegs.y,
      sp := s.cfg.resetRegs.sp, ccr := s.cfg.resetRegs.ccr, pc := t.pc, stopped := false, stale := [],
      draws := t.draws } := by
  simp only [State.resetEvent, bind_ok_iff] at h
  obtain ⟨⟨v, s1⟩, h1, h2⟩ := h
  cases h2
  have e1 := read16_frame _ _ _ _ h1
  rw [e1]
  rfl

end Sys2Proof.Machine
end

