-- ==== Sys2Proof/Laws/Boundary.lean ====
section
/-! SUPPORT. What a boundary and a fetch do, said once (R445, R449, R480, R63, R78, R79). -/

namespace Sys2Proof.Machine

/-- The input of a boundary is the head of the list, and the list loses it. -/
theorem popInput_eq (s : State) : s.popInput = (s.popInput.1, { s with inputs := s.inputs.tail }) := by
  unfold State.popInput
  split
  · rename_i h
    rw [show s.inputs.tail = s.inputs by rw [h]; rfl]
  · rename_i h
    rw [h]
    rfl

theorem popInput_cons (s : State) (i : Input) (rest : List Input) (h : s.inputs = i :: rest) :
    s.popInput = (i, { s with inputs := rest }) := by
  unfold State.popInput
  rw [h]

/-- Which source is chosen depends on CCR and the parameters only. -/
theorem chosenIrq_congr (s t : State) (p : List Nat) (hc : t.ccr = s.ccr) (hg : t.cfg = s.cfg) :
    t.chosenIrq p = s.chosenIrq p := by
  have h : ∀ c, t.classEnabled c = s.classEnabled c := fun c => by
    cases c <;> simp only [State.classEnabled, flag_def, hc]
  simp only [State.chosenIrq, hg, h]

/-- A boundary, from the input it uses up. -/
theorem boundary_eq (s : State) (inp : Input) (u : State) (h : s.popInput = (inp, u)) :
    s.boundary = if inp.reset then .done u.resetEvent
      else match u.chosenIrq inp.pending with
        | some q => .done (u.enterIrq q)
        | none => if u.stopped then .done (.ok u) else u.fetchInstr := by
  unfold State.boundary
  simp only [h] <;> rfl

/-- A quiet boundary fetches. -/
theorem boundary_quiet (s : State) (h : s.Quiet) : s.boundary = ({ s with inputs := s.inputs.tail } : State).fetchInstr := by
  obtain ⟨h1, h2, h3⟩ := h
  have h3' := (chosenIrq_congr s { s with inputs := s.inputs.tail } s.popInput.1.pending rfl rfl).trans h3
  rw [boundary_eq s _ _ (popInput_eq s), if_neg (by rw [h2]; decide), h3']
  simp only [h1, Bool.false_eq_true, if_false]

/-- A byte of plain, unstale code is fetched as it stands in memory. -/
theorem fetchByte_plain (s : State) (k : Nat) (h : s.PlainAt .fetch (s.pc + BitVec.ofNat 16 k))
    (hs : s.pc + BitVec.ofNat 16 k ∉ s.stale) : s.fetchByte k = .ok (s.byteAt (s.pc + BitVec.ofNat 16 k)) := by
  have hs' : s.stale.contains (s.pc + BitVec.ofNat 16 k) = false := by simpa using hs
  simp only [State.fetchByte, h.1, if_true, hs', h.2, Bool.false_eq_true, if_false]

/-- What is fetched begins with the code at PC, as far as it goes. -/
theorem fetchFrom_code (s : State) (bytes : List Byte) (fuel k : Nat) (hf : bytes.length ≤ fuel)
    (h : ∀ j, (hj : j < bytes.length) → s.fetchByte (k + j) = .ok bytes[j]) :
    ∃ more e, s.fetchFrom fuel k = (bytes ++ more, e) ∧ (bytes ++ more).length ≤ fuel := by
  induction bytes generalizing fuel k with
  | nil =>
    refine ⟨(s.fetchFrom fuel k).1, (s.fetchFrom fuel k).2, rfl, ?_⟩
    clear h hf
    rw [List.nil_append]
    induction fuel generalizing k with
    | zero => exact Nat.le_refl 0
    | succ n ih =>
      unfold State.fetchFrom
      split
      · rw [List.length_cons]
        exact Nat.succ_le_succ (ih _)
      · exact Nat.zero_le _
  | cons b bs ih =>
    cases fuel with
    | zero => exact absurd hf (by simp)
    | succ n =>
      obtain ⟨more, e, he, hl⟩ := ih n (k + 1) (by simpa using hf) fun j hj => by
        have := h (j + 1) (by simpa using hj)
        rw [show k + (j + 1) = k + 1 + j by omega] at this
        simpa using this
      refine ⟨more, e, ?_, by simpa using hl⟩
      have h0 := h 0 (by simp)
      simp only [Nat.add_zero, List.getElem_cons_zero] at h0
      unfold State.fetchFrom
      rw [h0]
      simp only [he]
      rfl

/-- Code in plain memory draws no free value. -/
theorem fetchesDevice_code (s : State) (bytes : List Byte) (h : s.CodeAtPc bytes) :
    s.fetchesDevice bytes.length = false := by
  unfold State.fetchesDevice
  rw [List.any_eq_false]
  intro k hk
  rw [(h k (List.mem_range.1 hk)).1.2]
  decide

end Sys2Proof.Machine
end

