-- ==== Sys2Proof/Laws/Decode.lean ====
section
/-! SUPPORT. Reading back what the encoder writes, field by field and operand by operand (R99 to R115). -/

namespace Sys2Proof

theorem mkWord_wordBytes (w : Word) : mkWord (hiByte w) (loByte w) = w := by
  apply BitVec.eq_of_getLsbD_eq
  intro i hi
  simp only [mkWord, hiByte, loByte, BitVec.getLsbD_append, BitVec.getLsbD_extractLsb']
  by_cases h : i < 8
  · simp [h]
  · have : i - 8 < 8 := by omega
    simp [h, this, show 8 + (i - 8) = i by omega]

/-- Two bytes read as the word they were written from. -/
@[simp] theorem takeWord_wordBytes (w : Word) (rest : List Byte) : takeWord (wordBytes w ++ rest) = .ok (w, rest) := by
  show Except.ok (mkWord (hiByte w) (loByte w), rest) = _
  rw [mkWord_wordBytes]

theorem xb_ofs5 (base : Base) (n : BitVec 5) :
    (base.code ++ (0#1 : BitVec 1) ++ n).getLsbD 5 = false ∧
      Base.ofCode ((base.code ++ (0#1 : BitVec 1) ++ n).extractLsb' 6 2) = base ∧
      (base.code ++ (0#1 : BitVec 1) ++ n).extractLsb' 0 5 = n := by
  cases base <;> revert n <;> decide

theorem xb_auto (r : AutoReg) (post : Bool) (n : BitVec 4) :
    (r.code ++ (1#1 : BitVec 1) ++ bit post ++ n).getLsbD 5 = true ∧
      AutoReg.ofCode ((r.code ++ (1#1 : BitVec 1) ++ bit post ++ n).extractLsb' 6 2) = some r ∧
      (r.code ++ (1#1 : BitVec 1) ++ bit post ++ n).getLsbD 4 = post ∧
      (r.code ++ (1#1 : BitVec 1) ++ bit post ++ n).extractLsb' 0 4 = n := by
  cases r <;> cases post <;> revert n <;> decide

theorem xb_acc (base : Base) (off : AccOfs) (rest : List Byte) :
    takeIdx (((7#3 : BitVec 3) ++ base.code ++ (1#1 : BitVec 1) ++ off.code) :: rest) = .ok (.acc base off, rest) := by
  cases base <;> cases off <;> rfl

theorem xb_ofs9 (base : Base) (n : BitVec 9) (rest : List Byte) :
    takeIdx (((7#3 : BitVec 3) ++ base.code ++ (0#2 : BitVec 2) ++ n.extractLsb' 8 1) :: n.extractLsb' 0 8 :: rest) =
      .ok (.ofs9 base n, rest) := by
  have h : n.extractLsb' 8 1 ++ n.extractLsb' 0 8 = n := by
    apply BitVec.eq_of_getLsbD_eq
    intro i hi
    simp only [BitVec.getLsbD_append, BitVec.getLsbD_extractLsb']
    by_cases h : i < 8
    · simp [h]
    · have : i = 8 := by omega
      subst this
      simp
  generalize n.extractLsb' 0 8 = lo at h
  generalize n.extractLsb' 8 1 = hi at h
  subst h
  have h2 : hi = 0#1 ∨ hi = 1#1 := by revert hi; decide
  rcases h2 with rfl | rfl <;> cases base <;> rfl

/-- An indexed operand reads as the form it was written from. -/
@[simp] theorem takeIdx_encode (i : Idx) (rest : List Byte) : takeIdx (i.encode ++ rest) = .ok (i, rest) := by
  cases i with
  | ofs5 base n =>
    obtain ⟨h1, h2, h3⟩ := xb_ofs5 base n
    simp only [Idx.encode, List.cons_append, List.nil_append, takeIdx]
    rw [if_pos h1, h2, h3]
  | auto r post n =>
    obtain ⟨h1, h2, h3, h4⟩ := xb_auto r post n
    simp only [Idx.encode, List.cons_append, List.nil_append, takeIdx]
    rw [if_neg (by rw [h1]; decide), h2, h3, h4]
  | acc base off => exact xb_acc base off rest
  | ofs9 base n => exact xb_ofs9 base n rest
  | ofs16 base n =>
    have h := takeWord_wordBytes n rest
    cases base <;> exact congrArg (fun r => r >>= fun p => Except.ok (Idx.ofs16 _ p.1, p.2)) h
  | ind16 base n =>
    have h := takeWord_wordBytes n rest
    cases base <;> exact congrArg (fun r => r >>= fun p => Except.ok (Idx.ind16 _ p.1, p.2)) h
  | indD base => cases base <;> rfl

/-- The classes of `xb` are those of the forms (R100, R124). -/
theorem encode_class (i : Idx) :
    ∃ xb bs, i.encode = xb :: bs ∧ xbIndirect xb = i.indirect ∧ xbShort xb = i.short := by
  cases i with
  | ofs5 base n =>
    refine ⟨_, _, rfl, ?_, ?_⟩ <;> cases base <;> revert n <;> decide
  | auto r post n =>
    refine ⟨_, _, rfl, ?_, ?_⟩ <;> cases r <;> cases post <;> revert n <;> decide
  | acc base off =>
    refine ⟨_, _, rfl, ?_, ?_⟩ <;> cases base <;> cases off <;> rfl
  | ofs9 base n =>
    refine ⟨_, _, rfl, ?_, ?_⟩ <;> simp only [Idx.indirect, Idx.short] <;> generalize n.extractLsb' 8 1 = hi <;>
      cases base <;> revert hi <;> decide
  | ofs16 base n => refine ⟨_, _, rfl, ?_, ?_⟩ <;> cases base <;> rfl
  | ind16 base n => refine ⟨_, _, rfl, ?_, ?_⟩ <;> cases base <;> rfl
  | indD base => refine ⟨_, _, rfl, ?_, ?_⟩ <;> cases base <;> rfl

/-- An operand of a non-indirect class reads as the form it was written from (R107(b)). -/
theorem takeIdxDirect_encode (i : Idx) (rest : List Byte) (h : i.indirect = false) :
    takeIdxDirect (i.encode ++ rest) = .ok (i, rest) := by
  obtain ⟨xb, bs, e, h1, -⟩ := encode_class i
  have h2 := takeIdx_encode i rest
  rw [e] at h2 ⊢
  simp only [List.cons_append] at h2 ⊢
  rw [takeIdxDirect, if_neg (by rw [h1, h]; decide), h2]

/-- An operand of the class without extension bytes reads as the form it was written from (R107(c)). -/
theorem takeIdxShort_encode (i : Idx) (rest : List Byte) (h : i.short = true) :
    takeIdxShort (i.encode ++ rest) = .ok (i, rest) := by
  obtain ⟨xb, bs, e, -, h1⟩ := encode_class i
  have h2 := takeIdx_encode i rest
  rw [e] at h2 ⊢
  simp only [List.cons_append] at h2 ⊢
  rw [takeIdxShort, if_pos (by rw [h1, h]), h2]

/-- `B7 eb` reads as the exchange or transfer it was written from (R110). -/
theorem xb_xfer (r1 r2 : Reg) :
    (∀ e : Bool, Reg.ofCode ((bit e ++ r1.code ++ (0#1 : BitVec 1) ++ r2.code).extractLsb' 4 3) = some r1) ∧
      (∀ e : Bool, Reg.ofCode ((bit e ++ r1.code ++ (0#1 : BitVec 1) ++ r2.code).extractLsb' 0 3) = some r2) := by
  cases r1 <;> cases r2 <;> decide

/-- The length of an indexed operand (R100). -/
theorem Idx_length (i : Idx) : 1 ≤ i.encode.length ∧ i.encode.length ≤ 3 ∧ (i.short = true → i.encode.length = 1) := by
  cases i <;> refine ⟨?_, ?_, ?_⟩ <;> simp [Idx.encode, wordBytes, Idx.short]

/-- The length of a memory form after its opcode. -/
theorem encodeOp_length (d e x : Byte) (m : Mem) :
    2 ≤ (m.encodeOp d e x).length ∧ (m.encodeOp d e x).length ≤ 4 := by
  cases m with
  | dir dd => simp [Mem.encodeOp]
  | ext a => simp [Mem.encodeOp, wordBytes]
  | idx i =>
    have := Idx_length i
    simp only [Mem.encodeOp, List.length_cons]
    omega

/-- The length of an instruction with an 8-bit source operand. -/
theorem src8_length (o : Byte) (op : Src8) : 2 ≤ (op.encodeOp o).length ∧ (op.encodeOp o).length ≤ 4 := by
  cases op with
  | imm ii => simp [Src8.encodeOp]
  | mem m => exact encodeOp_length _ _ _ m

/-- The length of an instruction with a 16-bit source operand. -/
theorem src16_length (o : Byte) (op : Src16) : 2 ≤ (op.encodeOp o).length ∧ (op.encodeOp o).length ≤ 4 := by
  cases op with
  | imm w => simp [Src16.encodeOp, wordBytes]
  | mem m => exact encodeOp_length _ _ _ m

/-- The length of the operand bytes of a move. -/
theorem move_length (m : Mem) (h : m.moveOperand = true) : 1 ≤ m.encode.length ∧ m.encode.length ≤ 2 := by
  cases m with
  | dir dd => exact absurd h Bool.false_ne_true
  | ext a => simp [Mem.encode, wordBytes]
  | idx i =>
    have := (Idx_length i).2.2 h
    simp only [Mem.encode]
    omega

end Sys2Proof
end

