-- ==== Sys2Proof/Laws/Operands.lean ====
section
/-! SUPPORT. What evaluating an operand does, said once (R140 to R150): which registers it may change, that it changes no
memory and no flag, and that on plain memory it always answers. -/

namespace Sys2Proof.Machine

/-- `t` is `s` but for the registers listed among X, Y and SP, and the count of free values. -/
structure State.Operand (s t : State) (regs : List RegName) : Prop where
  eq : t = { s with x := t.x, y := t.y, sp := t.sp, draws := t.draws }
  regs : ∀ r, r ∉ regs → t.reg r = s.reg r

theorem Operand_of_draws (s t : State) (regs : List RegName) (h : t = { s with draws := t.draws }) : s.Operand t regs := by
  constructor
  · rw [h]
  · intro r _
    rw [h]
    cases r <;> rfl

theorem Operand_trans (s t u : State) (regs : List RegName) (h : s.Operand t regs) (h' : u = { t with draws := u.draws }) :
    s.Operand u regs := by
  have e := h.eq
  constructor
  · rw [h', e]
  · intro r hr
    rw [← h.regs r hr, h']
    cases r <;> rfl

/-- The effective address of an indexed form: only an auto-adjusted base may change (R145). -/
theorem idxAddr_frame (s : State) (i : Idx) (a : Word) (t : State) (h : s.idxAddr i = .ok (a, t)) :
    s.Operand t (adjusts (idxAuto i)) := by
  cases i with
  | ofs5 base n => cases h; exact Operand_of_draws _ _ _ rfl
  | acc base off => cases h; exact Operand_of_draws _ _ _ rfl
  | ofs9 base n => cases h; exact Operand_of_draws _ _ _ rfl
  | ofs16 base n => cases h; exact Operand_of_draws _ _ _ rfl
  | ind16 base n => exact Operand_of_draws _ _ _ (read16_frame _ _ _ _ h)
  | indD base => exact Operand_of_draws _ _ _ (read16_frame _ _ _ _ h)
  | auto r post n =>
    cases h
    constructor
    · cases r <;> rfl
    · intro q hq
      cases r <;> cases q <;> first | rfl | exact absurd List.mem_cons_self hq

/-- The effective address of any form. -/
theorem ea_frame (s : State) (m : Mem) (a : Word) (t : State) (h : s.ea m = .ok (a, t)) :
    s.Operand t (adjusts (memAuto m)) := by
  cases m with
  | dir dd => cases h; exact Operand_of_draws _ _ _ rfl
  | ext k => cases h; exact Operand_of_draws _ _ _ rfl
  | idx i => exact idxAddr_frame s i a t h

/-- An 8-bit source operand. -/
theorem opnd8_frame (s : State) (op : Src8) (v : Byte) (t : State) (h : s.opnd8 op = .ok (v, t)) :
    s.Operand t (adjusts (src8Auto op)) := by
  cases op with
  | imm ii => cases h; exact Operand_of_draws _ _ _ rfl
  | mem m =>
    simp only [State.opnd8, bind_ok_iff] at h
    obtain ⟨⟨a, u⟩, h1, h2⟩ := h
    exact Operand_trans _ _ _ _ (ea_frame s m a u h1) (read8_frame _ _ _ _ h2)

/-- A 16-bit source operand. -/
theorem opnd16_frame (s : State) (op : Src16) (v : Word) (t : State) (h : s.opnd16 op = .ok (v, t)) :
    s.Operand t (adjusts (src16Auto op)) := by
  cases op with
  | imm w => cases h; exact Operand_of_draws _ _ _ rfl
  | mem m =>
    simp only [State.opnd16, bind_ok_iff] at h
    obtain ⟨⟨a, u⟩, h1, h2⟩ := h
    exact Operand_trans _ _ _ _ (ea_frame s m a u h1) (read16_frame _ _ _ _ h2)

/-! ## What an operand's evaluation leaves alone -/

theorem Operand_a {s t : State} {l : List RegName} (h : s.Operand t l) : t.a = s.a := by rw [h.eq]
theorem Operand_b {s t : State} {l : List RegName} (h : s.Operand t l) : t.b = s.b := by rw [h.eq]
theorem Operand_d {s t : State} {l : List RegName} (h : s.Operand t l) : t.d = s.d := by
  rw [d_def, d_def, Operand_a h, Operand_b h]
theorem Operand_pc {s t : State} {l : List RegName} (h : s.Operand t l) : t.pc = s.pc := by rw [h.eq]
theorem Operand_ccr {s t : State} {l : List RegName} (h : s.Operand t l) : t.ccr = s.ccr := by rw [h.eq]
theorem Operand_flag {s t : State} {l : List RegName} (h : s.Operand t l) (f : Flag) : t.flag f = s.flag f := by
  rw [flag_def, flag_def, Operand_ccr h]
theorem Operand_mem {s t : State} {l : List RegName} (h : s.Operand t l) : t.mem = s.mem := by rw [h.eq]
theorem Operand_byteAt {s t : State} {l : List RegName} (h : s.Operand t l) (a : Word) : t.byteAt a = s.byteAt a := by
  rw [State.byteAt, State.byteAt, Operand_mem h]
theorem Operand_stopped {s t : State} {l : List RegName} (h : s.Operand t l) : t.stopped = s.stopped := by rw [h.eq]
theorem Operand_stale {s t : State} {l : List RegName} (h : s.Operand t l) : t.stale = s.stale := by rw [h.eq]
theorem Operand_inputs {s t : State} {l : List RegName} (h : s.Operand t l) : t.inputs = s.inputs := by rw [h.eq]
theorem Operand_cfg {s t : State} {l : List RegName} (h : s.Operand t l) : t.cfg = s.cfg := by rw [h.eq]

theorem Operand_Inv {s t : State} {l : List RegName} (h : s.Operand t l) (i : s.Inv) : t.Inv :=
  ⟨by rw [Operand_mem h]; exact i.mem, by rw [Operand_stale h]; exact i.stale⟩

theorem Operand_PlainAt {s t : State} {l : List RegName} (h : s.Operand t l) (k : Access) (a : Word) :
    t.PlainAt k a ↔ s.PlainAt k a := PlainAt_congr s t k a (Operand_cfg h)

/-- An 8-bit operand from a memory form. -/
theorem opnd8_mem (s : State) (m : Mem) (v : Byte) (t : State) :
    s.opnd8 (.mem m) = .ok (v, t) ↔ ∃ a u, s.ea m = .ok (a, u) ∧ u.read8 a = .ok (v, t) := by
  simp only [State.opnd8, bind_ok_iff, Prod.exists]

/-- A 16-bit operand from a memory form. -/
theorem opnd16_mem (s : State) (m : Mem) (v : Word) (t : State) :
    s.opnd16 (.mem m) = .ok (v, t) ↔ ∃ a u, s.ea m = .ok (a, u) ∧ u.read16 a = .ok (v, t) := by
  simp only [State.opnd16, bind_ok_iff, Prod.exists]

/-! ## Operands on plain memory -/

/-- Where all memory is plain, every effective address is there. -/
theorem ea_plain (s : State) (h : s.AllPlain) (m : Mem) : ∃ a t, s.ea m = .ok (a, t) ∧ t.draws = s.draws := by
  cases m with
  | dir dd => exact ⟨_, _, rfl, rfl⟩
  | ext k => exact ⟨_, _, rfl, rfl⟩
  | idx i =>
    cases i with
    | ofs5 base n => exact ⟨_, _, rfl, rfl⟩
    | acc base off => exact ⟨_, _, rfl, rfl⟩
    | ofs9 base n => exact ⟨_, _, rfl, rfl⟩
    | ofs16 base n => exact ⟨_, _, rfl, rfl⟩
    | ind16 base n => exact ⟨_, _, read16_plain s _ (h _ _) (h _ _), rfl⟩
    | indD base => exact ⟨_, _, read16_plain s _ (h _ _) (h _ _), rfl⟩
    | auto r post n => exact ⟨_, _, rfl, by cases r <;> rfl⟩

/-- Where all memory is plain, every 8-bit operand is there. -/
theorem opnd8_plain (s : State) (h : s.AllPlain) (op : Src8) : ∃ v t, s.opnd8 op = .ok (v, t) := by
  cases op with
  | imm ii => exact ⟨_, _, rfl⟩
  | mem m =>
    obtain ⟨a, t, e, -⟩ := ea_plain s h m
    exact ⟨_, _, (opnd8_mem s m _ _).2
      ⟨a, t, e, read8_plain t a ((Operand_PlainAt (ea_frame s m a t e) _ _).2 (h _ _))⟩⟩

/-- Where all memory is plain, every 16-bit operand is there. -/
theorem opnd16_plain (s : State) (h : s.AllPlain) (op : Src16) : ∃ v t, s.opnd16 op = .ok (v, t) := by
  cases op with
  | imm w => exact ⟨_, _, rfl⟩
  | mem m =>
    obtain ⟨a, t, e, -⟩ := ea_plain s h m
    exact ⟨_, _, (opnd16_mem s m _ _).2
      ⟨a, t, e, read16_plain t a ((Operand_PlainAt (ea_frame s m a t e) _ _).2 (h _ _))
        ((Operand_PlainAt (ea_frame s m a t e) _ _).2 (h _ _))⟩⟩

end Sys2Proof.Machine
end

