-- ==== Sys2Proof/Laws/PerInstr.lean ====
section
/-! SUPPORT. Statements about every instruction as syntax, one lemma for every constructor of `Instr`. -/

namespace Sys2Proof.Laws

/-- A well-formed instruction is one to six bytes long (R91). -/
def Length.Statement (i : Instr) : Prop := i.wellFormed = true → 1 ≤ (encode i).length ∧ (encode i).length ≤ 6

theorem bounds2 (l : List Byte) (h : 2 ≤ l.length ∧ l.length ≤ 4) : 1 ≤ l.length ∧ l.length ≤ 6 := by omega

theorem bounds_append (l m : List Byte) (h : 2 ≤ l.length ∧ l.length ≤ 4) (hm : m.length ≤ 2) :
    1 ≤ (l ++ m).length ∧ (l ++ m).length ≤ 6 := by
  rw [List.length_append]
  omega

theorem lea_bounds (o : Byte) (i : Idx) : 1 ≤ (o :: i.encode).length ∧ (o :: i.encode).length ≤ 6 := by
  have := Idx_length i
  rw [List.length_cons]
  omega

theorem movb_bounds (src : Src8) (dst : Mem) (h : (src.moveOperand && dst.moveOperand) = true) :
    1 ≤ (movbBytes src dst).length ∧ (movbBytes src dst).length ≤ 6 := by
  rw [Bool.and_eq_true] at h
  have hd := move_length dst h.2
  cases src with
  | imm ii => cases dst <;> simp only [movbBytes, Mem.encode, List.length_append, List.length_cons, List.length_nil] at hd ⊢ <;> omega
  | mem m =>
    have hm := move_length m h.1
    cases m <;> cases dst <;>
      simp only [movbBytes, Mem.encode, List.length_append, List.length_cons, List.length_nil] at hd hm ⊢ <;> omega

theorem movw_bounds (src : Src16) (dst : Mem) (h : (src.moveOperand && dst.moveOperand) = true) :
    1 ≤ (movwBytes src dst).length ∧ (movwBytes src dst).length ≤ 6 := by
  rw [Bool.and_eq_true] at h
  have hd := move_length dst h.2
  cases src with
  | imm w =>
    cases dst <;>
      simp only [movwBytes, Mem.encode, wordBytes, List.length_append, List.length_cons, List.length_nil] at hd ⊢ <;> omega
  | mem m =>
    have hm := move_length m h.1
    cases m <;> cases dst <;>
      simp only [movwBytes, Mem.encode, List.length_append, List.length_cons, List.length_nil] at hd hm ⊢ <;> omega

theorem Length.suba (op : Src8) : Length.Statement (.suba op) := fun _ => bounds2 _ (src8_length _ op)
theorem Length.cmpa (op : Src8) : Length.Statement (.cmpa op) := fun _ => bounds2 _ (src8_length _ op)
theorem Length.sbca (op : Src8) : Length.Statement (.sbca op) := fun _ => bounds2 _ (src8_length _ op)
theorem Length.anda (op : Src8) : Length.Statement (.anda op) := fun _ => bounds2 _ (src8_length _ op)
theorem Length.bita (op : Src8) : Length.Statement (.bita op) := fun _ => bounds2 _ (src8_length _ op)
theorem Length.ldaa (op : Src8) : Length.Statement (.ldaa op) := fun _ => bounds2 _ (src8_length _ op)
theorem Length.eora (op : Src8) : Length.Statement (.eora op) := fun _ => bounds2 _ (src8_length _ op)
theorem Length.adca (op : Src8) : Length.Statement (.adca op) := fun _ => bounds2 _ (src8_length _ op)
theorem Length.oraa (op : Src8) : Length.Statement (.oraa op) := fun _ => bounds2 _ (src8_length _ op)
theorem Length.adda (op : Src8) : Length.Statement (.adda op) := fun _ => bounds2 _ (src8_length _ op)
theorem Length.subb (op : Src8) : Length.Statement (.subb op) := fun _ => bounds2 _ (src8_length _ op)
theorem Length.cmpb (op : Src8) : Length.Statement (.cmpb op) := fun _ => bounds2 _ (src8_length _ op)
theorem Length.sbcb (op : Src8) : Length.Statement (.sbcb op) := fun _ => bounds2 _ (src8_length _ op)
theorem Length.andb (op : Src8) : Length.Statement (.andb op) := fun _ => bounds2 _ (src8_length _ op)
theorem Length.bitb (op : Src8) : Length.Statement (.bitb op) := fun _ => bounds2 _ (src8_length _ op)
theorem Length.ldab (op : Src8) : Length.Statement (.ldab op) := fun _ => bounds2 _ (src8_length _ op)
theorem Length.eorb (op : Src8) : Length.Statement (.eorb op) := fun _ => bounds2 _ (src8_length _ op)
theorem Length.adcb (op : Src8) : Length.Statement (.adcb op) := fun _ => bounds2 _ (src8_length _ op)
theorem Length.orab (op : Src8) : Length.Statement (.orab op) := fun _ => bounds2 _ (src8_length _ op)
theorem Length.addb (op : Src8) : Length.Statement (.addb op) := fun _ => bounds2 _ (src8_length _ op)
theorem Length.subd (op : Src16) : Length.Statement (.subd op) := fun _ => bounds2 _ (src16_length _ op)
theorem Length.addd (op : Src16) : Length.Statement (.addd op) := fun _ => bounds2 _ (src16_length _ op)
theorem Length.cpd (op : Src16) : Length.Statement (.cpd op) := fun _ => bounds2 _ (src16_length _ op)
theorem Length.cpy (op : Src16) : Length.Statement (.cpy op) := fun _ => bounds2 _ (src16_length _ op)
theorem Length.cpx (op : Src16) : Length.Statement (.cpx op) := fun _ => bounds2 _ (src16_length _ op)
theorem Length.cps (op : Src16) : Length.Statement (.cps op) := fun _ => bounds2 _ (src16_length _ op)
theorem Length.ldd (op : Src16) : Length.Statement (.ldd op) := fun _ => bounds2 _ (src16_length _ op)
theorem Length.ldy (op : Src16) : Length.Statement (.ldy op) := fun _ => bounds2 _ (src16_length _ op)
theorem Length.ldx (op : Src16) : Length.Statement (.ldx op) := fun _ => bounds2 _ (src16_length _ op)
theorem Length.lds (op : Src16) : Length.Statement (.lds op) := fun _ => bounds2 _ (src16_length _ op)
theorem Length.staa (m : Mem) : Length.Statement (.staa m) := fun _ => bounds2 _ (encodeOp_length _ _ _ m)
theorem Length.stab (m : Mem) : Length.Statement (.stab m) := fun _ => bounds2 _ (encodeOp_length _ _ _ m)
theorem Length.std (m : Mem) : Length.Statement (.std m) := fun _ => bounds2 _ (encodeOp_length _ _ _ m)
theorem Length.sty (m : Mem) : Length.Statement (.sty m) := fun _ => bounds2 _ (encodeOp_length _ _ _ m)
theorem Length.stx (m : Mem) : Length.Statement (.stx m) := fun _ => bounds2 _ (encodeOp_length _ _ _ m)
theorem Length.sts (m : Mem) : Length.Statement (.sts m) := fun _ => bounds2 _ (encodeOp_length _ _ _ m)
theorem Length.neg (m : Mem) : Length.Statement (.neg m) := fun _ => bounds2 _ (encodeOp_length _ _ _ m)
theorem Length.com (m : Mem) : Length.Statement (.com m) := fun _ => bounds2 _ (encodeOp_length _ _ _ m)
theorem Length.inc (m : Mem) : Length.Statement (.inc m) := fun _ => bounds2 _ (encodeOp_length _ _ _ m)
theorem Length.dec (m : Mem) : Length.Statement (.dec m) := fun _ => bounds2 _ (encodeOp_length _ _ _ m)
theorem Length.lsr (m : Mem) : Length.Statement (.lsr m) := fun _ => bounds2 _ (encodeOp_length _ _ _ m)
theorem Length.rol (m : Mem) : Length.Statement (.rol m) := fun _ => bounds2 _ (encodeOp_length _ _ _ m)
theorem Length.ror (m : Mem) : Length.Statement (.ror m) := fun _ => bounds2 _ (encodeOp_length _ _ _ m)
theorem Length.asr (m : Mem) : Length.Statement (.asr m) := fun _ => bounds2 _ (encodeOp_length _ _ _ m)
theorem Length.asl (m : Mem) : Length.Statement (.asl m) := fun _ => bounds2 _ (encodeOp_length _ _ _ m)
theorem Length.lsl (m : Mem) : Length.Statement (.lsl m) := fun _ => bounds2 _ (encodeOp_length _ _ _ m)
theorem Length.clr (m : Mem) : Length.Statement (.clr m) := fun _ => bounds2 _ (encodeOp_length _ _ _ m)
theorem Length.tst (m : Mem) : Length.Statement (.tst m) := fun _ => bounds2 _ (encodeOp_length _ _ _ m)
theorem Length.nega : Length.Statement (.nega) := fun _ => ⟨Nat.le_of_ble_eq_true rfl, Nat.le_of_ble_eq_true rfl⟩
theorem Length.negb : Length.Statement (.negb) := fun _ => ⟨Nat.le_of_ble_eq_true rfl, Nat.le_of_ble_eq_true rfl⟩
theorem Length.coma : Length.Statement (.coma) := fun _ => ⟨Nat.le_of_ble_eq_true rfl, Nat.le_of_ble_eq_true rfl⟩
theorem Length.comb : Length.Statement (.comb) := fun _ => ⟨Nat.le_of_ble_eq_true rfl, Nat.le_of_ble_eq_true rfl⟩
theorem Length.inca : Length.Statement (.inca) := fun _ => ⟨Nat.le_of_ble_eq_true rfl, Nat.le_of_ble_eq_true rfl⟩
theorem Length.incb : Length.Statement (.incb) := fun _ => ⟨Nat.le_of_ble_eq_true rfl, Nat.le_of_ble_eq_true rfl⟩
theorem Length.deca : Length.Statement (.deca) := fun _ => ⟨Nat.le_of_ble_eq_true rfl, Nat.le_of_ble_eq_true rfl⟩
theorem Length.decb : Length.Statement (.decb) := fun _ => ⟨Nat.le_of_ble_eq_true rfl, Nat.le_of_ble_eq_true rfl⟩
theorem Length.lsra : Length.Statement (.lsra) := fun _ => ⟨Nat.le_of_ble_eq_true rfl, Nat.le_of_ble_eq_true rfl⟩
theorem Length.lsrb : Length.Statement (.lsrb) := fun _ => ⟨Nat.le_of_ble_eq_true rfl, Nat.le_of_ble_eq_true rfl⟩
theorem Length.rola : Length.Statement (.rola) := fun _ => ⟨Nat.le_of_ble_eq_true rfl, Nat.le_of_ble_eq_true rfl⟩
theorem Length.rolb : Length.Statement (.rolb) := fun _ => ⟨Nat.le_of_ble_eq_true rfl, Nat.le_of_ble_eq_true rfl⟩
theorem Length.rora : Length.Statement (.rora) := fun _ => ⟨Nat.le_of_ble_eq_true rfl, Nat.le_of_ble_eq_true rfl⟩
theorem Length.rorb : Length.Statement (.rorb) := fun _ => ⟨Nat.le_of_ble_eq_true rfl, Nat.le_of_ble_eq_true rfl⟩
theorem Length.asra : Length.Statement (.asra) := fun _ => ⟨Nat.le_of_ble_eq_true rfl, Nat.le_of_ble_eq_true rfl⟩
theorem Length.asrb : Length.Statement (.asrb) := fun _ => ⟨Nat.le_of_ble_eq_true rfl, Nat.le_of_ble_eq_true rfl⟩
theorem Length.asla : Length.Statement (.asla) := fun _ => ⟨Nat.le_of_ble_eq_true rfl, Nat.le_of_ble_eq_true rfl⟩
theorem Length.aslb : Length.Statement (.aslb) := fun _ => ⟨Nat.le_of_ble_eq_true rfl, Nat.le_of_ble_eq_true rfl⟩
theorem Length.lsla : Length.Statement (.lsla) := fun _ => ⟨Nat.le_of_ble_eq_true rfl, Nat.le_of_ble_eq_true rfl⟩
theorem Length.lslb : Length.Statement (.lslb) := fun _ => ⟨Nat.le_of_ble_eq_true rfl, Nat.le_of_ble_eq_true rfl⟩
theorem Length.asld : Length.Statement (.asld) := fun _ => ⟨Nat.le_of_ble_eq_true rfl, Nat.le_of_ble_eq_true rfl⟩
theorem Length.lsld : Length.Statement (.lsld) := fun _ => ⟨Nat.le_of_ble_eq_true rfl, Nat.le_of_ble_eq_true rfl⟩
theorem Length.lsrd : Length.Statement (.lsrd) := fun _ => ⟨Nat.le_of_ble_eq_true rfl, Nat.le_of_ble_eq_true rfl⟩
theorem Length.clra : Length.Statement (.clra) := fun _ => ⟨Nat.le_of_ble_eq_true rfl, Nat.le_of_ble_eq_true rfl⟩
theorem Length.clrb : Length.Statement (.clrb) := fun _ => ⟨Nat.le_of_ble_eq_true rfl, Nat.le_of_ble_eq_true rfl⟩
theorem Length.tsta : Length.Statement (.tsta) := fun _ => ⟨Nat.le_of_ble_eq_true rfl, Nat.le_of_ble_eq_true rfl⟩
theorem Length.tstb : Length.Statement (.tstb) := fun _ => ⟨Nat.le_of_ble_eq_true rfl, Nat.le_of_ble_eq_true rfl⟩
theorem Length.psha : Length.Statement (.psha) := fun _ => ⟨Nat.le_of_ble_eq_true rfl, Nat.le_of_ble_eq_true rfl⟩
theorem Length.pshb : Length.Statement (.pshb) := fun _ => ⟨Nat.le_of_ble_eq_true rfl, Nat.le_of_ble_eq_true rfl⟩
theorem Length.pshc : Length.Statement (.pshc) := fun _ => ⟨Nat.le_of_ble_eq_true rfl, Nat.le_of_ble_eq_true rfl⟩
theorem Length.pshd : Length.Statement (.pshd) := fun _ => ⟨Nat.le_of_ble_eq_true rfl, Nat.le_of_ble_eq_true rfl⟩
theorem Length.pshx : Length.Statement (.pshx) := fun _ => ⟨Nat.le_of_ble_eq_true rfl, Nat.le_of_ble_eq_true rfl⟩
theorem Length.pshy : Length.Statement (.pshy) := fun _ => ⟨Nat.le_of_ble_eq_true rfl, Nat.le_of_ble_eq_true rfl⟩
theorem Length.pula : Length.Statement (.pula) := fun _ => ⟨Nat.le_of_ble_eq_true rfl, Nat.le_of_ble_eq_true rfl⟩
theorem Length.pulb : Length.Statement (.pulb) := fun _ => ⟨Nat.le_of_ble_eq_true rfl, Nat.le_of_ble_eq_true rfl⟩
theorem Length.pulc : Length.Statement (.pulc) := fun _ => ⟨Nat.le_of_ble_eq_true rfl, Nat.le_of_ble_eq_true rfl⟩
theorem Length.puld : Length.Statement (.puld) := fun _ => ⟨Nat.le_of_ble_eq_true rfl, Nat.le_of_ble_eq_true rfl⟩
theorem Length.pulx : Length.Statement (.pulx) := fun _ => ⟨Nat.le_of_ble_eq_true rfl, Nat.le_of_ble_eq_true rfl⟩
theorem Length.puly : Length.Statement (.puly) := fun _ => ⟨Nat.le_of_ble_eq_true rfl, Nat.le_of_ble_eq_true rfl⟩
theorem Length.mul : Length.Statement (.mul) := fun _ => ⟨Nat.le_of_ble_eq_true rfl, Nat.le_of_ble_eq_true rfl⟩
theorem Length.dex : Length.Statement (.dex) := fun _ => ⟨Nat.le_of_ble_eq_true rfl, Nat.le_of_ble_eq_true rfl⟩
theorem Length.dey : Length.Statement (.dey) := fun _ => ⟨Nat.le_of_ble_eq_true rfl, Nat.le_of_ble_eq_true rfl⟩
theorem Length.inx : Length.Statement (.inx) := fun _ => ⟨Nat.le_of_ble_eq_true rfl, Nat.le_of_ble_eq_true rfl⟩
theorem Length.iny : Length.Statement (.iny) := fun _ => ⟨Nat.le_of_ble_eq_true rfl, Nat.le_of_ble_eq_true rfl⟩
theorem Length.nop : Length.Statement (.nop) := fun _ => ⟨Nat.le_of_ble_eq_true rfl, Nat.le_of_ble_eq_true rfl⟩
theorem Length.aba : Length.Statement (.aba) := fun _ => ⟨Nat.le_of_ble_eq_true rfl, Nat.le_of_ble_eq_true rfl⟩
theorem Length.daa : Length.Statement (.daa) := fun _ => ⟨Nat.le_of_ble_eq_true rfl, Nat.le_of_ble_eq_true rfl⟩
theorem Length.tab : Length.Statement (.tab) := fun _ => ⟨Nat.le_of_ble_eq_true rfl, Nat.le_of_ble_eq_true rfl⟩
theorem Length.tba : Length.Statement (.tba) := fun _ => ⟨Nat.le_of_ble_eq_true rfl, Nat.le_of_ble_eq_true rfl⟩
theorem Length.idiv : Length.Statement (.idiv) := fun _ => ⟨Nat.le_of_ble_eq_true rfl, Nat.le_of_ble_eq_true rfl⟩
theorem Length.fdiv : Length.Statement (.fdiv) := fun _ => ⟨Nat.le_of_ble_eq_true rfl, Nat.le_of_ble_eq_true rfl⟩
theorem Length.sba : Length.Statement (.sba) := fun _ => ⟨Nat.le_of_ble_eq_true rfl, Nat.le_of_ble_eq_true rfl⟩
theorem Length.cba : Length.Statement (.cba) := fun _ => ⟨Nat.le_of_ble_eq_true rfl, Nat.le_of_ble_eq_true rfl⟩
theorem Length.leay (i : Idx) : Length.Statement (.leay i) := fun _ => lea_bounds _ i
theorem Length.leax (i : Idx) : Length.Statement (.leax i) := fun _ => lea_bounds _ i
theorem Length.leas (i : Idx) : Length.Statement (.leas i) := fun _ => lea_bounds _ i
theorem Length.abx : Length.Statement (.abx) := fun _ => ⟨Nat.le_of_ble_eq_true rfl, Nat.le_of_ble_eq_true rfl⟩
theorem Length.aby : Length.Statement (.aby) := fun _ => ⟨Nat.le_of_ble_eq_true rfl, Nat.le_of_ble_eq_true rfl⟩
theorem Length.des : Length.Statement (.des) := fun _ => ⟨Nat.le_of_ble_eq_true rfl, Nat.le_of_ble_eq_true rfl⟩
theorem Length.ins : Length.Statement (.ins) := fun _ => ⟨Nat.le_of_ble_eq_true rfl, Nat.le_of_ble_eq_true rfl⟩
theorem Length.movb (src : Src8) (dst : Mem) : Length.Statement (.movb src dst) := fun h => movb_bounds src dst h
theorem Length.movw (src : Src16) (dst : Mem) : Length.Statement (.movw src dst) := fun h => movw_bounds src dst h
theorem Length.tfr (r1 : Reg) (r2 : Reg) : Length.Statement (.tfr r1 r2) := fun _ => ⟨Nat.le_of_ble_eq_true rfl, Nat.le_of_ble_eq_true rfl⟩
theorem Length.exg (r1 : Reg) (r2 : Reg) : Length.Statement (.exg r1 r2) := fun _ => ⟨Nat.le_of_ble_eq_true rfl, Nat.le_of_ble_eq_true rfl⟩
theorem Length.tap : Length.Statement (.tap) := fun _ => ⟨Nat.le_of_ble_eq_true rfl, Nat.le_of_ble_eq_true rfl⟩
theorem Length.tpa : Length.Statement (.tpa) := fun _ => ⟨Nat.le_of_ble_eq_true rfl, Nat.le_of_ble_eq_true rfl⟩
theorem Length.tsx : Length.Statement (.tsx) := fun _ => ⟨Nat.le_of_ble_eq_true rfl, Nat.le_of_ble_eq_true rfl⟩
theorem Length.tsy : Length.Statement (.tsy) := fun _ => ⟨Nat.le_of_ble_eq_true rfl, Nat.le_of_ble_eq_true rfl⟩
theorem Length.txs : Length.Statement (.txs) := fun _ => ⟨Nat.le_of_ble_eq_true rfl, Nat.le_of_ble_eq_true rfl⟩
theorem Length.tys : Length.Statement (.tys) := fun _ => ⟨Nat.le_of_ble_eq_true rfl, Nat.le_of_ble_eq_true rfl⟩
theorem Length.xgdx : Length.Statement (.xgdx) := fun _ => ⟨Nat.le_of_ble_eq_true rfl, Nat.le_of_ble_eq_true rfl⟩
theorem Length.xgdy : Length.Statement (.xgdy) := fun _ => ⟨Nat.le_of_ble_eq_true rfl, Nat.le_of_ble_eq_true rfl⟩
theorem Length.andcc (ii : Byte) : Length.Statement (.andcc ii) := fun _ => ⟨Nat.le_of_ble_eq_true rfl, Nat.le_of_ble_eq_true rfl⟩
theorem Length.orcc (ii : Byte) : Length.Statement (.orcc ii) := fun _ => ⟨Nat.le_of_ble_eq_true rfl, Nat.le_of_ble_eq_true rfl⟩
theorem Length.clc : Length.Statement (.clc) := fun _ => ⟨Nat.le_of_ble_eq_true rfl, Nat.le_of_ble_eq_true rfl⟩
theorem Length.cli : Length.Statement (.cli) := fun _ => ⟨Nat.le_of_ble_eq_true rfl, Nat.le_of_ble_eq_true rfl⟩
theorem Length.clv : Length.Statement (.clv) := fun _ => ⟨Nat.le_of_ble_eq_true rfl, Nat.le_of_ble_eq_true rfl⟩
theorem Length.sec : Length.Statement (.sec) := fun _ => ⟨Nat.le_of_ble_eq_true rfl, Nat.le_of_ble_eq_true rfl⟩
theorem Length.sei : Length.Statement (.sei) := fun _ => ⟨Nat.le_of_ble_eq_true rfl, Nat.le_of_ble_eq_true rfl⟩
theorem Length.sev : Length.Statement (.sev) := fun _ => ⟨Nat.le_of_ble_eq_true rfl, Nat.le_of_ble_eq_true rfl⟩
theorem Length.bclr (m : Mem) (mm : Byte) : Length.Statement (.bclr m mm) := fun _ => bounds_append _ [mm] (encodeOp_length _ _ _ m) (by simp)
theorem Length.bset (m : Mem) (mm : Byte) : Length.Statement (.bset m mm) := fun _ => bounds_append _ [mm] (encodeOp_length _ _ _ m) (by simp)
theorem Length.brclr (m : Mem) (mm : Byte) (rr : Byte) : Length.Statement (.brclr m mm rr) := fun _ => bounds_append _ [mm, rr] (encodeOp_length _ _ _ m) (by simp)
theorem Length.brset (m : Mem) (mm : Byte) (rr : Byte) : Length.Statement (.brset m mm rr) := fun _ => bounds_append _ [mm, rr] (encodeOp_length _ _ _ m) (by simp)
theorem Length.bra (rr : Byte) : Length.Statement (.bra rr) := fun _ => ⟨Nat.le_of_ble_eq_true rfl, Nat.le_of_ble_eq_true rfl⟩
theorem Length.bhi (rr : Byte) : Length.Statement (.bhi rr) := fun _ => ⟨Nat.le_of_ble_eq_true rfl, Nat.le_of_ble_eq_true rfl⟩
theorem Length.bls (rr : Byte) : Length.Statement (.bls rr) := fun _ => ⟨Nat.le_of_ble_eq_true rfl, Nat.le_of_ble_eq_true rfl⟩
theorem Length.bcc (rr : Byte) : Length.Statement (.bcc rr) := fun _ => ⟨Nat.le_of_ble_eq_true rfl, Nat.le_of_ble_eq_true rfl⟩
theorem Length.bcs (rr : Byte) : Length.Statement (.bcs rr) := fun _ => ⟨Nat.le_of_ble_eq_true rfl, Nat.le_of_ble_eq_true rfl⟩
theorem Length.bne (rr : Byte) : Length.Statement (.bne rr) := fun _ => ⟨Nat.le_of_ble_eq_true rfl, Nat.le_of_ble_eq_true rfl⟩
theorem Length.beq (rr : Byte) : Length.Statement (.beq rr) := fun _ => ⟨Nat.le_of_ble_eq_true rfl, Nat.le_of_ble_eq_true rfl⟩
theorem Length.bvc (rr : Byte) : Length.Statement (.bvc rr) := fun _ => ⟨Nat.le_of_ble_eq_true rfl, Nat.le_of_ble_eq_true rfl⟩
theorem Length.bvs (rr : Byte) : Length.Statement (.bvs rr) := fun _ => ⟨Nat.le_of_ble_eq_true rfl, Nat.le_of_ble_eq_true rfl⟩
theorem Length.bpl (rr : Byte) : Length.Statement (.bpl rr) := fun _ => ⟨Nat.le_of_ble_eq_true rfl, Nat.le_of_ble_eq_true rfl⟩
theorem Length.bmi (rr : Byte) : Length.Statement (.bmi rr) := fun _ => ⟨Nat.le_of_ble_eq_true rfl, Nat.le_of_ble_eq_true rfl⟩
theorem Length.bge (rr : Byte) : Length.Statement (.bge rr) := fun _ => ⟨Nat.le_of_ble_eq_true rfl, Nat.le_of_ble_eq_true rfl⟩
theorem Length.blt (rr : Byte) : Length.Statement (.blt rr) := fun _ => ⟨Nat.le_of_ble_eq_true rfl, Nat.le_of_ble_eq_true rfl⟩
theorem Length.bgt (rr : Byte) : Length.Statement (.bgt rr) := fun _ => ⟨Nat.le_of_ble_eq_true rfl, Nat.le_of_ble_eq_true rfl⟩
theorem Length.ble (rr : Byte) : Length.Statement (.ble rr) := fun _ => ⟨Nat.le_of_ble_eq_true rfl, Nat.le_of_ble_eq_true rfl⟩
theorem Length.bhs (rr : Byte) : Length.Statement (.bhs rr) := fun _ => ⟨Nat.le_of_ble_eq_true rfl, Nat.le_of_ble_eq_true rfl⟩
theorem Length.blo (rr : Byte) : Length.Statement (.blo rr) := fun _ => ⟨Nat.le_of_ble_eq_true rfl, Nat.le_of_ble_eq_true rfl⟩
theorem Length.jmp (m : Mem) : Length.Statement (.jmp m) := fun _ => bounds2 _ (encodeOp_length _ _ _ m)
theorem Length.jsr (m : Mem) : Length.Statement (.jsr m) := fun _ => bounds2 _ (encodeOp_length _ _ _ m)
theorem Length.bsr (rr : Byte) : Length.Statement (.bsr rr) := fun _ => ⟨Nat.le_of_ble_eq_true rfl, Nat.le_of_ble_eq_true rfl⟩
theorem Length.rts : Length.Statement (.rts) := fun _ => ⟨Nat.le_of_ble_eq_true rfl, Nat.le_of_ble_eq_true rfl⟩
theorem Length.dbeq (c : Cntr) (rel : BitVec 9) : Length.Statement (.dbeq c rel) := fun _ => ⟨Nat.le_of_ble_eq_true rfl, Nat.le_of_ble_eq_true rfl⟩
theorem Length.dbne (c : Cntr) (rel : BitVec 9) : Length.Statement (.dbne c rel) := fun _ => ⟨Nat.le_of_ble_eq_true rfl, Nat.le_of_ble_eq_true rfl⟩
theorem Length.tbeq (c : Cntr) (rel : BitVec 9) : Length.Statement (.tbeq c rel) := fun _ => ⟨Nat.le_of_ble_eq_true rfl, Nat.le_of_ble_eq_true rfl⟩
theorem Length.tbne (c : Cntr) (rel : BitVec 9) : Length.Statement (.tbne c rel) := fun _ => ⟨Nat.le_of_ble_eq_true rfl, Nat.le_of_ble_eq_true rfl⟩
theorem Length.ibeq (c : Cntr) (rel : BitVec 9) : Length.Statement (.ibeq c rel) := fun _ => ⟨Nat.le_of_ble_eq_true rfl, Nat.le_of_ble_eq_true rfl⟩
theorem Length.ibne (c : Cntr) (rel : BitVec 9) : Length.Statement (.ibne c rel) := fun _ => ⟨Nat.le_of_ble_eq_true rfl, Nat.le_of_ble_eq_true rfl⟩
theorem Length.swi : Length.Statement (.swi) := fun _ => ⟨Nat.le_of_ble_eq_true rfl, Nat.le_of_ble_eq_true rfl⟩
theorem Length.rti : Length.Statement (.rti) := fun _ => ⟨Nat.le_of_ble_eq_true rfl, Nat.le_of_ble_eq_true rfl⟩
theorem Length.stop : Length.Statement (.stop) := fun _ => ⟨Nat.le_of_ble_eq_true rfl, Nat.le_of_ble_eq_true rfl⟩

end Sys2Proof.Laws
end

