-- ==== Sys2Proof/Laws/Run.lean ====
section
/-! SUPPORT. What a run to its end does, said once, and how a stopped CPU waits (R8, D25, R449). -/

namespace Sys2Proof.Machine

/-- Where nothing can wake the CPU, no source is entered, whatever is pending. -/
theorem chosenIrq_of_cannotWake (s : State) (pending : List Nat) (h : s.canWake = false) :
    s.chosenIrq pending = none := by
  simp only [State.canWake, List.any_eq_false, Bool.not_eq_true] at h
  simp only [State.chosenIrq, List.find?_eq_none]
  intro q hq
  simp [h q hq]

/-- A stopped CPU that nothing can wake stays as it is at every boundary but a reset: it uses up an input. -/
theorem step_cannotWake (s : State) (hs : s.stopped = true) (hw : s.canWake = false)
    (hr : s.popInput.1.reset = false) : step s = .next { s with inputs := s.inputs.tail } := by
  have hq := chosenIrq_of_cannotWake { s with inputs := s.inputs.tail } s.popInput.1.pending hw
  unfold step
  rw [boundary_eq s _ _ (popInput_eq s), if_neg (by rw [hr]; decide), hq]
  simp only [hs, if_true, outcome]

/-- The end by STOP is kept: a step that is no reset leaves the CPU stopped with nothing able to wake it (U15). -/
theorem stopped_end_kept (s t : State) (hs : s.stopped = true) (hw : s.canWake = false)
    (hr : s.popInput.1.reset = false) (h : step s = .next t) : t.stopped = true ∧ t.canWake = false := by
  rw [step_cannotWake s hs hw hr] at h
  cases h
  exact ⟨hs, hw⟩

/-- A run that has ended takes no further step. -/
theorem runToEnd_of_ended (s : State) (k : Nat) (h : s.runEnded = true) : s.runToEnd k = .ended s := by
  cases k <;> simp only [State.runToEnd, h, if_true]

/-- An end state is one that the parameter `EndOfRun` names, and steps lead to it. -/
theorem runToEnd_ended (s t : State) (k : Nat) (h : s.runToEnd k = .ended t) :
    t.runEnded = true ∧ ∃ j, j ≤ k ∧ s.RunsTo j t := by
  induction k generalizing s with
  | zero =>
    unfold State.runToEnd at h
    split at h
    · rename_i he
      cases h
      exact ⟨he, 0, Nat.le_refl 0, rfl⟩
    · cases h
  | succ n ih =>
    unfold State.runToEnd at h
    split at h
    · rename_i he
      cases h
      exact ⟨he, 0, Nat.zero_le _, rfl⟩
    · split at h
      · rename_i u hu
        obtain ⟨he, j, hj, hr⟩ := ih u h
        refine ⟨he, j + 1, Nat.succ_le_succ hj, ?_⟩
        unfold State.RunsTo at hr ⊢
        simp only [Host.Core.run, hu]
        exact hr
      · cases h
      · cases h

end Sys2Proof.Machine
end

