-- ==== Sys2Proof/Tests/Slice0.lean ====
section
/-! SUPPORT. Tests: ill-formed terms are refused, words written out from the spec decode to their instructions, one step of
each instruction gives what the vectors of 95_test_vectors.md and 96_test_vectors_2.md say (`_v<k>` is vector V<k>), and
concrete states meet the hypotheses of the statements (`witness_<statement>`). -/

namespace Sys2Proof.Tests

open Sys2Proof.Machine

/-! ## WellFormed: one ill-formed term for each check -/

theorem test_wf_rmw_has_no_dir : (Instr.neg (.dir 0x20)).wellFormed = false ∧ (Instr.jmp (.dir 0x20)).wellFormed = false :=
  ⟨rfl, rfl⟩

theorem test_wf_lea_has_no_indirect :
    (Instr.leax (.indD .x)).wellFormed = false ∧ (Instr.leay (.ind16 .x 0)).wellFormed = false := ⟨rfl, rfl⟩

theorem test_wf_bits_have_no_indirect :
    (Instr.bclr (.idx (.indD .x)) 0x01).wellFormed = false ∧
    (Instr.brset (.idx (.ind16 .y 2)) 0x01 0x00).wellFormed = false := ⟨rfl, rfl⟩

theorem test_wf_move_source : (Instr.movb (.mem (.dir 0x20)) (.ext 0x9000)).wellFormed = false ∧
    (Instr.movw (.mem (.idx (.ofs9 .x 100))) (.ext 0x9000)).wellFormed = false := ⟨rfl, rfl⟩

theorem test_wf_move_destination : (Instr.movb (.imm 0x00) (.dir 0x20)).wellFormed = false ∧
    (Instr.movw (.imm 0x0000) (.idx (.ofs16 .x 0))).wellFormed = false := ⟨rfl, rfl⟩

/-! ## Decode: a word of every constructor, from the Machine Code column (R91, R120, R121, R130) -/

theorem test_decode_sub_cmp_a :
    decode [0x80, 0x10] = .ok (.suba (.imm 0x10), []) ∧
    decode [0x91, 0x20] = .ok (.cmpa (.mem (.dir 0x20)), []) ∧
    decode [0xB2, 0x12, 0x34] = .ok (.sbca (.mem (.ext 0x1234)), []) ∧
    decode [0xA4, 0x45] = .ok (.anda (.mem (.idx (.ofs5 .y 5))), []) ∧
    decode [0xA5, 0x1F] = .ok (.bita (.mem (.idx (.ofs5 .x (-1)))), []) ∧
    decode [0x86, 0x5A] = .ok (.ldaa (.imm 0x5A), []) ∧
    decode [0xA8, 0xE4] = .ok (.eora (.mem (.idx (.acc .x .a))), []) ∧
    decode [0xA9, 0xE3, 0x01, 0x00] = .ok (.adca (.mem (.idx (.ind16 .x 0x0100))), []) ∧
    decode [0xAA, 0xFF] = .ok (.oraa (.mem (.idx (.indD .pc))), []) ∧
    decode [0xAB, 0xE9, 0x9C] = .ok (.adda (.mem (.idx (.ofs9 .y 0x19C))), []) := by
  and_intros <;> rfl

theorem test_decode_sub_cmp_b :
    decode [0xC0, 0x10] = .ok (.subb (.imm 0x10), []) ∧
    decode [0xD1, 0x20] = .ok (.cmpb (.mem (.dir 0x20)), []) ∧
    decode [0xF2, 0x12, 0x34] = .ok (.sbcb (.mem (.ext 0x1234)), []) ∧
    decode [0xE4, 0xB0] = .ok (.andb (.mem (.idx (.auto .sp true 0))), []) ∧
    decode [0xE5, 0x2F] = .ok (.bitb (.mem (.idx (.auto .x false 15))), []) ∧
    decode [0xE6, 0xF2, 0x12, 0x34] = .ok (.ldab (.mem (.idx (.ofs16 .sp 0x1234))), []) ∧
    decode [0xE8, 0xFD] = .ok (.eorb (.mem (.idx (.acc .pc .b))), []) ∧
    decode [0xC9, 0x80] = .ok (.adcb (.imm 0x80), []) ∧
    decode [0xDA, 0x20] = .ok (.orab (.mem (.dir 0x20)), []) ∧
    decode [0xFB, 0x12, 0x34] = .ok (.addb (.mem (.ext 0x1234)), []) := by
  and_intros <;> rfl

theorem test_decode_words :
    decode [0x83, 0x12, 0x34] = .ok (.subd (.imm 0x1234), []) ∧
    decode [0xD3, 0x20] = .ok (.addd (.mem (.dir 0x20)), []) ∧
    decode [0xBC, 0x12, 0x34] = .ok (.cpd (.mem (.ext 0x1234)), []) ∧
    decode [0x8D, 0x7F, 0xFF] = .ok (.cpy (.imm 0x7FFF), []) ∧
    decode [0xAE, 0x71] = .ok (.cpx (.mem (.idx (.auto .y true 1))), []) ∧
    decode [0xAF, 0xE6] = .ok (.cps (.mem (.idx (.acc .x .d))), []) ∧
    decode [0xCC, 0x12, 0x34] = .ok (.ldd (.imm 0x1234), []) ∧
    decode [0xED, 0xE3, 0x00, 0x10] = .ok (.ldy (.mem (.idx (.ind16 .x 0x0010))), []) ∧
    decode [0xEE, 0xE7] = .ok (.ldx (.mem (.idx (.indD .x))), []) ∧
    decode [0xDF, 0x20] = .ok (.lds (.mem (.dir 0x20)), []) := by
  and_intros <;> rfl

theorem test_decode_stores :
    decode [0x5A, 0x20] = .ok (.staa (.dir 0x20), []) ∧
    decode [0x6B, 0x40] = .ok (.stab (.idx (.ofs5 .y 0)), []) ∧
    decode [0x7C, 0x10, 0x00] = .ok (.std (.ext 0x1000), []) ∧
    decode [0x7D, 0xFF, 0xFF] = .ok (.sty (.ext 0xFFFF), []) ∧
    decode [0x6E, 0xE1, 0x9C] = .ok (.stx (.idx (.ofs9 .x 0x19C)), []) ∧
    decode [0x6F, 0xAE] = .ok (.sts (.idx (.auto .sp false 14)), []) := by
  and_intros <;> rfl

theorem test_decode_rmw :
    decode [0x60, 0x00] = .ok (.neg (.idx (.ofs5 .x 0)), []) ∧
    decode [0x71, 0x10, 0x00] = .ok (.com (.ext 0x1000), []) ∧
    decode [0x62, 0x30] = .ok (.inc (.idx (.auto .x true 0)), []) ∧
    decode [0x73, 0x10, 0x00] = .ok (.dec (.ext 0x1000), []) ∧
    decode [0x74, 0x10, 0x00] = .ok (.lsr (.ext 0x1000), []) ∧
    decode [0x65, 0xAE] = .ok (.rol (.idx (.auto .sp false 14)), []) ∧
    decode [0x76, 0x10, 0x00] = .ok (.ror (.ext 0x1000), []) ∧
    decode [0x67, 0x00] = .ok (.asr (.idx (.ofs5 .x 0)), []) ∧
    decode [0x78, 0x10, 0x00] = .ok (.asl (.ext 0x1000), []) ∧
    decode [0x79, 0x10, 0x00] = .ok (.clr (.ext 0x1000), []) ∧
    decode [0xE7, 0xE7] = .ok (.tst (.idx (.indD .x)), []) := by
  and_intros <;> rfl

theorem test_decode_acc :
    decode [0x40] = .ok (.nega, []) ∧
    decode [0x50] = .ok (.negb, []) ∧
    decode [0x41] = .ok (.coma, []) ∧
    decode [0x51] = .ok (.comb, []) ∧
    decode [0x42] = .ok (.inca, []) ∧
    decode [0x52] = .ok (.incb, []) ∧
    decode [0x43] = .ok (.deca, []) ∧
    decode [0x53] = .ok (.decb, []) ∧
    decode [0x44] = .ok (.lsra, []) ∧
    decode [0x54] = .ok (.lsrb, []) ∧
    decode [0x45] = .ok (.rola, []) ∧
    decode [0x55] = .ok (.rolb, []) ∧
    decode [0x46] = .ok (.rora, []) ∧
    decode [0x56] = .ok (.rorb, []) ∧
    decode [0x47] = .ok (.asra, []) ∧
    decode [0x57] = .ok (.asrb, []) ∧
    decode [0x48] = .ok (.asla, []) ∧
    decode [0x58] = .ok (.aslb, []) ∧
    decode [0x59] = .ok (.asld, []) ∧
    decode [0x49] = .ok (.lsrd, []) ∧
    decode [0x87] = .ok (.clra, []) ∧
    decode [0xC7] = .ok (.clrb, []) ∧
    decode [0x97] = .ok (.tsta, []) ∧
    decode [0xD7] = .ok (.tstb, []) := by
  and_intros <;> rfl

theorem test_decode_stack :
    decode [0x36] = .ok (.psha, []) ∧
    decode [0x37] = .ok (.pshb, []) ∧
    decode [0x39] = .ok (.pshc, []) ∧
    decode [0x3B] = .ok (.pshd, []) ∧
    decode [0x34] = .ok (.pshx, []) ∧
    decode [0x35] = .ok (.pshy, []) ∧
    decode [0x32] = .ok (.pula, []) ∧
    decode [0x33] = .ok (.pulb, []) ∧
    decode [0x38] = .ok (.pulc, []) ∧
    decode [0x3A] = .ok (.puld, []) ∧
    decode [0x30] = .ok (.pulx, []) ∧
    decode [0x31] = .ok (.puly, []) := by
  and_intros <;> rfl

theorem test_decode_inherent :
    decode [0x12] = .ok (.mul, []) ∧
    decode [0x09] = .ok (.dex, []) ∧
    decode [0x03] = .ok (.dey, []) ∧
    decode [0x08] = .ok (.inx, []) ∧
    decode [0x02] = .ok (.iny, []) ∧
    decode [0xA7] = .ok (.nop, []) ∧
    decode [0x18, 0x06] = .ok (.aba, []) ∧
    decode [0x18, 0x07] = .ok (.daa, []) ∧
    decode [0x18, 0x0E] = .ok (.tab, []) ∧
    decode [0x18, 0x0F] = .ok (.tba, []) ∧
    decode [0x18, 0x10] = .ok (.idiv, []) ∧
    decode [0x18, 0x11] = .ok (.fdiv, []) ∧
    decode [0x18, 0x16] = .ok (.sba, []) ∧
    decode [0x18, 0x17] = .ok (.cba, []) ∧
    decode [0x3F] = .ok (.swi, []) ∧
    decode [0x0B] = .ok (.rti, []) ∧
    decode [0x18, 0x3E] = .ok (.stop, []) ∧
    decode [0x3D] = .ok (.rts, []) := by
  and_intros <;> rfl

theorem test_decode_lea_move :
    decode [0x19, 0xF2, 0x01, 0x2C] = .ok (.leay (.ofs16 .sp 0x012C), []) ∧
    decode [0x1A, 0x73] = .ok (.leax (.auto .y true 3), []) ∧
    decode [0x1B, 0x9C] = .ok (.leas (.ofs5 .sp (-4)), []) ∧
    decode [0x18, 0x08, 0x30, 0xAA] = .ok (.movb (.imm 0xAA) (.idx (.auto .x true 0)), []) ∧
    decode [0x18, 0x0D, 0x40, 0x90, 0x00] = .ok (.movb (.mem (.idx (.ofs5 .y 0))) (.ext 0x9000), []) ∧
    decode [0x18, 0x01, 0xE6, 0x90, 0x00] = .ok (.movw (.mem (.ext 0x9000)) (.idx (.acc .x .d)), []) ∧
    decode [0x18, 0x03, 0x12, 0x34, 0x10, 0x00] = .ok (.movw (.imm 0x1234) (.ext 0x1000), []) := by
  and_intros <;> rfl

theorem test_decode_xfer_mask :
    decode [0xB7, 0x45] = .ok (.tfr .d .x, []) ∧
    decode [0xB7, 0xC7] = .ok (.exg .d .sp, []) ∧
    decode [0x10, 0xBF] = .ok (.andcc 0xBF, []) ∧
    decode [0x14, 0x11] = .ok (.orcc 0x11, []) := by
  and_intros <;> rfl

theorem test_decode_bits :
    decode [0x4D, 0x20, 0x0F] = .ok (.bclr (.dir 0x20) 0x0F, []) ∧
    decode [0x0C, 0xEA, 0x12, 0x34, 0x01] = .ok (.bset (.idx (.ofs16 .y 0x1234)) 0x01, []) ∧
    decode [0x1F, 0x10, 0x00, 0x00, 0xF9] = .ok (.brclr (.ext 0x1000) 0x00 0xF9, []) ∧
    decode [0x0E, 0xE0, 0x64, 0x01, 0x02] = .ok (.brset (.idx (.ofs9 .x 100)) 0x01 0x02, []) := by
  and_intros <;> rfl

theorem test_decode_branches :
    decode [0x20, 0xFE] = .ok (.bra 0xFE, []) ∧
    decode [0x22, 0x04] = .ok (.bhi 0x04, []) ∧
    decode [0x23, 0x04] = .ok (.bls 0x04, []) ∧
    decode [0x24, 0x04] = .ok (.bcc 0x04, []) ∧
    decode [0x25, 0x04] = .ok (.bcs 0x04, []) ∧
    decode [0x26, 0xF0] = .ok (.bne 0xF0, []) ∧
    decode [0x27, 0x10] = .ok (.beq 0x10, []) ∧
    decode [0x28, 0x04] = .ok (.bvc 0x04, []) ∧
    decode [0x29, 0x04] = .ok (.bvs 0x04, []) ∧
    decode [0x2A, 0x04] = .ok (.bpl 0x04, []) ∧
    decode [0x2B, 0x04] = .ok (.bmi 0x04, []) ∧
    decode [0x2C, 0x04] = .ok (.bge 0x04, []) ∧
    decode [0x2D, 0x04] = .ok (.blt 0x04, []) ∧
    decode [0x2E, 0x04] = .ok (.bgt 0x04, []) ∧
    decode [0x2F, 0x04] = .ok (.ble 0x04, []) := by
  and_intros <;> rfl

theorem test_decode_jumps_loops :
    decode [0x05, 0xEB, 0x00, 0x02] = .ok (.jmp (.idx (.ind16 .y 0x0002)), []) ∧
    decode [0x17, 0x40] = .ok (.jsr (.dir 0x40), []) ∧
    decode [0x07, 0x10] = .ok (.bsr 0x10, []) ∧
    decode [0x04, 0x00, 0x10] = .ok (.dbeq .a 0x010, []) ∧
    decode [0x04, 0x31, 0xFA] = .ok (.dbne .b 0x1FA, []) ∧
    decode [0x04, 0x46, 0x20] = .ok (.tbeq .y 0x020, []) ∧
    decode [0x04, 0x77, 0x80] = .ok (.tbne .sp 0x180, []) ∧
    decode [0x04, 0x85, 0x04] = .ok (.ibeq .x 0x004, []) ∧
    decode [0x04, 0xB4, 0xFD] = .ok (.ibne .d 0x1FD, []) := by
  and_intros <;> rfl

/-- The words of the aliases are the core instructions' (R123, R130). -/
theorem test_decode_aliases :
    decode [0x1A, 0xE5] = .ok (Instr.core .abx, []) ∧
    decode [0x19, 0xED] = .ok (Instr.core .aby, []) ∧
    decode [0x1B, 0x9F] = .ok (Instr.core .des, []) ∧
    decode [0x1B, 0x81] = .ok (Instr.core .ins, []) ∧
    decode [0x10, 0xFE] = .ok (Instr.core .clc, []) ∧
    decode [0x10, 0xEF] = .ok (Instr.core .cli, []) ∧
    decode [0x10, 0xFD] = .ok (Instr.core .clv, []) ∧
    decode [0x14, 0x01] = .ok (Instr.core .sec, []) ∧
    decode [0x14, 0x10] = .ok (Instr.core .sei, []) ∧
    decode [0x14, 0x02] = .ok (Instr.core .sev, []) ∧
    decode [0xB7, 0x02] = .ok (Instr.core .tap, []) ∧
    decode [0xB7, 0x20] = .ok (Instr.core .tpa, []) ∧
    decode [0xB7, 0x75] = .ok (Instr.core .tsx, []) ∧
    decode [0xB7, 0x76] = .ok (Instr.core .tsy, []) ∧
    decode [0xB7, 0x57] = .ok (Instr.core .txs, []) ∧
    decode [0xB7, 0x67] = .ok (Instr.core .tys, []) ∧
    decode [0xB7, 0xC5] = .ok (Instr.core .xgdx, []) ∧
    decode [0xB7, 0xC6] = .ok (Instr.core .xgdy, []) ∧
    decode [0x24, 0x04] = .ok (Instr.core (.bhs 0x04), []) ∧
    decode [0x25, 0x04] = .ok (Instr.core (.blo 0x04), []) ∧
    decode [0x78, 0x10, 0x00] = .ok (Instr.core (.lsl (.ext 0x1000)), []) ∧
    decode [0x48] = .ok (Instr.core .lsla, []) ∧
    decode [0x58] = .ok (Instr.core .lslb, []) ∧
    decode [0x59] = .ok (Instr.core .lsld, []) := by
  and_intros <;> rfl

/-! ## One step of each instruction, from the vectors of files 95 and 96 -/

/-- The vectors' base state. -/
def base : State := { State.reset with x := 0x1000, y := 0x2000, sp := 0x0C00, pc := 0x8000, ccr := 0xD0 }

/-- Bytes put into memory. -/
def pokes (s : State) (l : List (Nat × Byte)) : State :=
  { s with mem := l.foldl (fun m p => Memory.write m p.1 p.2) s.mem }

/-- The bytes at consecutive addresses. -/
def bytesAt (s : State) (a n : Nat) : List Byte := (List.range n).map fun k => Memory.read s.mem (a + k)

/-- What is seen of the next state after one step at the bytes given. -/
def after {α : Type} (s : State) (bytes : List Byte) (see : State → α) : Option α :=
  match step (s.placeAtPc bytes) with
  | .next t => some (see t)
  | .fault _ | .refused _ => none

/-- Why the step at the bytes given stops. -/
def stopOf (s : State) (bytes : List Byte) : Option Stop :=
  match step (s.placeAtPc bytes) with
  | .next _ => none
  | .fault f => some (.fault f)
  | .refused r => some (.refused r)

theorem test_ldaa_v19 : after { base with a := 0x55, ccr := 0xDB } [0x86, 0x00]
    (fun t => (t.a, t.ccr)) = some (0x00, 0xD5) := by
  rfl
theorem test_ldab_v24 : after (pokes base [(0x0FFF, 0x42)]) [0xE6, 0x2F]
    (fun t => (t.b, t.x, t.ccr)) = some (0x42, 0x0FFF, 0xD0) := by
  rfl
theorem test_ldd_v29 : after (pokes { base with a := 0x05, b := 0xF0 } [(0x15F0, 0xAB), (0x15F1, 0xCD), (0xABCD,
    0x00), (0xABCE, 0x00)]) [0xEC, 0xE7] (fun t => (t.a, t.b, t.ccr)) = some (0x00, 0x00, 0xD4) := by
  rfl
theorem test_lds_v30 : after { base with sp := 0x0000 } [0xCF, 0x0C, 0x00]
    (fun t => (t.sp, t.ccr)) = some (0x0C00, 0xD0) := by
  rfl
theorem test_ldx_v31 : after (pokes base [(0x2000, 0xBE), (0x2001, 0xEF)]) [0xEE, 0x71]
    (fun t => (t.x, t.y, t.ccr)) = some (0xBEEF, 0x2002, 0xD8) := by
  rfl
theorem test_ldy_v33 : after (pokes base [(0x1010, 0x44), (0x1011, 0x44), (0x4444, 0x80), (0x4445, 0x01)]) [0xED, 0xE3,
    0x00, 0x10] (fun t => (t.y, t.ccr)) = some (0x8001, 0xD8) := by
  rfl
theorem test_staa_v35 : after { base with a := 0xFF, ccr := 0xD1 } [0x5A, 0x20]
    (fun t => (t.ccr, t.byteAt 0x0020)) = some (0xD9, 0xFF) := by
  rfl
theorem test_stab_v36 : after { base with b := 0x00 } [0x6B, 0x40]
    (fun t => (t.ccr, t.byteAt 0x2000)) = some (0xD4, 0x00) := by
  rfl
theorem test_std_v38 : after { base with a := 0x80, b := 0x00 } [0x6C, 0xAE]
    (fun t => (t.sp, t.ccr, t.byteAt 0x0BFE, t.byteAt 0x0BFF)) = some (0x0BFE, 0xD8, 0x80, 0x00) := by
  rfl
theorem test_sts_v39 : after base [0x5F, 0x40]
    (fun t => (t.ccr, t.byteAt 0x0040, t.byteAt 0x0041)) = some (0xD0, 0x0C, 0x00) := by
  rfl
theorem test_stx_v41 : after base [0x6E, 0xE1, 0x9C]
    (fun t => (t.ccr, t.byteAt 0x0F9C, t.byteAt 0x0F9D)) = some (0xD0, 0x10, 0x00) := by
  rfl
theorem test_sty_v42 : after base [0x7D, 0xFF, 0xFF]
    (fun t => (t.ccr, t.byteAt 0x0000, t.byteAt 0xFFFF)) = some (0xD0, 0x00, 0x20) := by
  rfl
theorem test_leax_v48 : after base [0x1A, 0x73] (fun t => (t.x, t.y, t.ccr)) = some (0x2000, 0x2004, 0xD0) := by
  rfl
theorem test_leas_v45 : after base [0x1B, 0x9C] (fun t => (t.sp, t.ccr)) = some (0x0BFC, 0xD0) := by
  rfl
theorem test_leay_v46 : after { base with a := 0xF0, b := 0x01 } [0x19, 0xE6]
    (fun t => (t.y, t.ccr)) = some (0x0001, 0xD0) := by
  rfl
theorem test_movb_v55 : after base [0x18, 0x08, 0x30, 0xAA]
    (fun t => (t.x, t.ccr, t.byteAt 0x1000)) = some (0x1001, 0xD0, 0xAA) := by
  rfl
theorem test_movb_v57 : after (pokes base [(0x9000, 0x22)]) [0x18, 0x09, 0x40, 0x90, 0x00]
    (fun t => (t.ccr, t.byteAt 0x2000)) = some (0xD0, 0x22) := by
  rfl
theorem test_movw_v62 : after (pokes base [(0x9000, 0xAA), (0x9001, 0xBB)]) [0x18, 0x04, 0x90, 0x00, 0x90, 0x01]
    (fun t => (t.ccr, t.byteAt 0x9001, t.byteAt 0x9002)) = some (0xD0, 0xAA, 0xBB) := by
  rfl
theorem test_psha_v70 : after { base with a := 0xAB, sp := 0x0000 } [0x36]
    (fun t => (t.sp, t.ccr, t.byteAt 0xFFFF)) = some (0xFFFF, 0xD0, 0xAB) := by
  rfl
theorem test_pshb_v71 : after { base with b := 0xCD } [0x37]
    (fun t => (t.sp, t.ccr, t.byteAt 0x0BFF)) = some (0x0BFF, 0xD0, 0xCD) := by
  rfl
theorem test_pshc_v72 : after base [0x39] (fun t => (t.sp, t.ccr, t.byteAt 0x0BFF)) = some (0x0BFF, 0xD0, 0xD0) := by
  rfl
theorem test_pshd_v73 : after { base with a := 0x12, b := 0x34 } [0x3B]
    (fun t => (t.sp, t.ccr, t.byteAt 0x0BFE, t.byteAt 0x0BFF)) = some (0x0BFE, 0xD0, 0x12, 0x34) := by
  rfl
theorem test_pshx_v74 : after { base with x := 0xBEEF } [0x34]
    (fun t => (t.sp, t.ccr, t.byteAt 0x0BFE, t.byteAt 0x0BFF)) = some (0x0BFE, 0xD0, 0xBE, 0xEF) := by
  rfl
theorem test_pshy_v75 : after { base with y := 0x0001 } [0x35]
    (fun t => (t.sp, t.ccr, t.byteAt 0x0BFE, t.byteAt 0x0BFF)) = some (0x0BFE, 0xD0, 0x00, 0x01) := by
  rfl
theorem test_pula_v77 : after (pokes { base with sp := 0xFFFF } [(0xFFFF, 0x01)]) [0x32]
    (fun t => (t.a, t.sp, t.ccr)) = some (0x01, 0x0000, 0xD0) := by
  rfl
theorem test_pulb_v78 : after (pokes { base with sp := 0x0BFF } [(0x0BFF, 0xCD)]) [0x33]
    (fun t => (t.b, t.sp, t.ccr)) = some (0xCD, 0x0C00, 0xD0) := by
  rfl
theorem test_pulc_v80 : after (pokes { base with sp := 0x0BFF, ccr := 0x00 } [(0x0BFF, 0xFF)]) [0x38]
    (fun t => (t.sp, t.ccr)) = some (0x0C00, 0xBF) := by
  rfl
theorem test_puld_v82 : after (pokes { base with sp := 0x0BFE } [(0x0BFE, 0x12), (0x0BFF, 0x34)]) [0x3A]
    (fun t => (t.a, t.b, t.sp, t.ccr)) = some (0x12, 0x34, 0x0C00, 0xD0) := by
  rfl
theorem test_pulx_v83 : after (pokes { base with sp := 0x0BFE } [(0x0BFE, 0xBE), (0x0BFF, 0xEF)]) [0x30]
    (fun t => (t.x, t.sp, t.ccr)) = some (0xBEEF, 0x0C00, 0xD0) := by
  rfl
theorem test_puly_v84 : after (pokes { base with sp := 0x0BFE } [(0x0BFE, 0x00), (0x0BFF, 0x01)]) [0x31]
    (fun t => (t.y, t.sp, t.ccr)) = some (0x0001, 0x0C00, 0xD0) := by
  rfl
theorem test_tfr_v86 : after { base with x := 0x12F4 } [0xB7, 0x50] (fun t => (t.a, t.ccr)) = some (0xF4, 0xD0) := by
  rfl
theorem test_tfr_v92 : after { base with a := 0xFF, ccr := 0x90 } [0xB7, 0x02] (fun t => t.ccr) = some 0xBF := by
  rfl
theorem test_exg_v98 : after { base with a := 0x0B, b := 0x00 } [0xB7, 0xC7]
    (fun t => (t.a, t.sp, t.ccr)) = some (0x0C, 0x0B00, 0xD0) := by
  rfl
theorem test_exg_v99 : after { base with a := 0x0F, ccr := 0x90 } [0xB7, 0x82]
    (fun t => (t.a, t.ccr)) = some (0x90, 0x0F) := by
  rfl
theorem test_tab_v106 : after { base with a := 0x80, ccr := 0xD1 } [0x18, 0x0E]
    (fun t => (t.b, t.ccr)) = some (0x80, 0xD9) := by
  rfl
theorem test_tba_v107 : after { base with a := 0x55, b := 0x00 } [0x18, 0x0F]
    (fun t => (t.a, t.ccr)) = some (0x00, 0xD4) := by
  rfl
theorem test_aba_v108 : after { base with a := 0x7F, b := 0x01 } [0x18, 0x06]
    (fun t => (t.a, t.ccr)) = some (0x80, 0xFA) := by
  rfl
theorem test_adda_v110 : after { base with a := 0x80 } [0x8B, 0x80] (fun t => (t.a, t.ccr)) = some (0x00, 0xD7) := by
  rfl
theorem test_addb_v113 : after { base with b := 0xFF } [0xCB, 0x01] (fun t => (t.b, t.ccr)) = some (0x00, 0xF5) := by
  rfl
theorem test_adca_v114 : after { base with a := 0xFF, ccr := 0xD1 } [0x89, 0x00]
    (fun t => (t.a, t.ccr)) = some (0x00, 0xF5) := by
  rfl
theorem test_adcb_v116 : after { base with b := 0x80 } [0xC9, 0x80] (fun t => (t.b, t.ccr)) = some (0x00, 0xD7) := by
  rfl
theorem test_addd_v118 : after { base with a := 0x7F, b := 0xFF, ccr := 0xF0 } [0xC3, 0x00, 0x01]
    (fun t => (t.a, t.b, t.ccr)) = some (0x80, 0x00, 0xFA) := by
  rfl
theorem test_sba_v122 : after { base with a := 0x10, b := 0x20 } [0x18, 0x16]
    (fun t => (t.a, t.ccr)) = some (0xF0, 0xD9) := by
  rfl
theorem test_suba_v123 : after { base with a := 0x80 } [0x80, 0x01] (fun t => (t.a, t.ccr)) = some (0x7F, 0xD2) := by
  rfl
theorem test_subb_v125 : after { base with b := 0x05 } [0xC0, 0x05] (fun t => (t.b, t.ccr)) = some (0x00, 0xD4) := by
  rfl
theorem test_sbca_v126 : after { base with a := 0x00, ccr := 0xD1 } [0x82, 0xFF] (fun t => t.ccr) = some 0xD5 := by
  rfl
theorem test_sbcb_v128 : after { base with b := 0x00, ccr := 0xD1 } [0xC2, 0x00]
    (fun t => (t.b, t.ccr)) = some (0xFF, 0xD9) := by
  rfl
theorem test_subd_v129 : after base [0x83, 0x00, 0x01] (fun t => (t.a, t.b, t.ccr)) = some (0xFF, 0xFF, 0xD9) := by
  rfl
theorem test_cba_v131 : after { base with a := 0x20, b := 0x20 } [0x18, 0x17] (fun t => t.ccr) = some 0xD4 := by
  rfl
theorem test_cmpa_v133 : after { base with a := 0xFF } [0x81, 0x01] (fun t => t.ccr) = some 0xD8 := by
  rfl
theorem test_cmpb_v134 : after { base with b := 0x7F } [0xC1, 0x80] (fun t => t.ccr) = some 0xDB := by
  rfl
theorem test_cpd_v135 : after { base with a := 0x12, b := 0x34 } [0x8C, 0x12, 0x34] (fun t => t.ccr) = some 0xD4 := by
  rfl
theorem test_cps_v136 : after { base with sp := 0x0BFE } [0x8F, 0x0C, 0x00] (fun t => t.ccr) = some 0xD9 := by
  rfl
theorem test_cpx_v139 : after (pokes { base with x := 0x1234 } [(0x2000, 0x12), (0x2001, 0x34)]) [0xAE, 0x71]
    (fun t => (t.y, t.ccr)) = some (0x2002, 0xD4) := by
  rfl
theorem test_cpy_v138 : after { base with y := 0x8000 } [0x8D, 0x7F, 0xFF] (fun t => t.ccr) = some 0xD2 := by
  rfl
theorem test_daa_v140 : after { base with a := 0x81, ccr := 0xF8 } [0x18, 0x07] (fun t => t.a) = some 0x87 := by
  rfl
theorem test_dec_v145 : after (pokes { base with ccr := 0xD1 } [(0x1000, 0x00)]) [0x63, 0x00]
    (fun t => (t.ccr, t.byteAt 0x1000)) = some (0xD9, 0xFF) := by
  rfl
theorem test_deca_v146 : after { base with a := 0x01 } [0x43] (fun t => (t.a, t.ccr)) = some (0x00, 0xD4) := by
  rfl
theorem test_decb_v147 : after { base with b := 0x00 } [0x53] (fun t => (t.b, t.ccr)) = some (0xFF, 0xD8) := by
  rfl
theorem test_dex_v149 : after { base with x := 0x0000, ccr := 0xD4 } [0x09]
    (fun t => (t.x, t.ccr)) = some (0xFFFF, 0xD0) := by
  rfl
theorem test_dey_v150 : after { base with y := 0x0000 } [0x03] (fun t => (t.y, t.ccr)) = some (0xFFFF, 0xD0) := by
  rfl
theorem test_inc_v152 : after (pokes base [(0x1000, 0xFF)]) [0x62, 0x30]
    (fun t => (t.x, t.ccr, t.byteAt 0x1000)) = some (0x1001, 0xD4, 0x00) := by
  rfl
theorem test_inca_v153 : after { base with a := 0xFF, ccr := 0xD1 } [0x42]
    (fun t => (t.a, t.ccr)) = some (0x00, 0xD5) := by
  rfl
theorem test_incb_v154 : after { base with b := 0x7F } [0x52] (fun t => (t.b, t.ccr)) = some (0x80, 0xDA) := by
  rfl
theorem test_inx_v155 : after { base with x := 0xFFFF } [0x08] (fun t => (t.x, t.ccr)) = some (0x0000, 0xD4) := by
  rfl
theorem test_iny_v156 : after { base with y := 0x00FF } [0x02] (fun t => (t.y, t.ccr)) = some (0x0100, 0xD0) := by
  rfl
theorem test_neg_v157 : after (pokes base [(0x1000, 0x01)]) [0x70, 0x10, 0x00]
    (fun t => (t.ccr, t.byteAt 0x1000)) = some (0xD9, 0xFF) := by
  rfl
theorem test_nega_v158 : after { base with a := 0x80 } [0x40] (fun t => t.ccr) = some 0xDB := by
  rfl
theorem test_negb_v159 : after { base with b := 0x00, ccr := 0xD1 } [0x50] (fun t => t.ccr) = some 0xD4 := by
  rfl
theorem test_clr_v160 : after (pokes { base with ccr := 0xDB } [(0x1000, 0xFF)]) [0x79, 0x10, 0x00]
    (fun t => (t.ccr, t.byteAt 0x1000)) = some (0xD4, 0x00) := by
  rfl
theorem test_clra_v162 : after { base with a := 0xFF, ccr := 0xD1 } [0x87]
    (fun t => (t.a, t.ccr)) = some (0x00, 0xD4) := by
  rfl
theorem test_clrb_v163 : after { base with b := 0x12 } [0xC7] (fun t => (t.b, t.ccr)) = some (0x00, 0xD4) := by
  rfl
theorem test_tst_v165 : after (pokes { base with a := 0x00, b := 0x02 } [(0x1002, 0x90), (0x1003, 0x00), (0x9000,
    0x00)]) [0xE7, 0xE7] (fun t => t.ccr) = some 0xD4 := by
  rfl
theorem test_tsta_v166 : after { base with a := 0x00, ccr := 0xD1 } [0x97] (fun t => t.ccr) = some 0xD4 := by
  rfl
theorem test_tstb_v167 : after { base with b := 0xFF } [0xD7] (fun t => t.ccr) = some 0xD8 := by
  rfl
theorem test_mul_v168 : after { base with a := 0x10, b := 0x18 } [0x12]
    (fun t => (t.a, t.b, t.ccr)) = some (0x01, 0x80, 0xD1) := by
  rfl
theorem test_idiv_v171 : after { base with a := 0x00, b := 0x64, x := 0x0007 } [0x18, 0x10]
    (fun t => (t.b, t.x, t.ccr)) = some (0x02, 0x000E, 0xD0) := by
  rfl
theorem test_fdiv_v176 : after { base with a := 0x00, b := 0x01, x := 0x0003 } [0x18, 0x11]
    (fun t => (t.x, t.ccr)) = some (0x5555, 0xD0) := by
  rfl
theorem test_anda_v181 : after { base with a := 0xF0, ccr := 0xD3 } [0x84, 0x0F]
    (fun t => (t.a, t.ccr)) = some (0x00, 0xD5) := by
  rfl
theorem test_andb_v182 : after (pokes { base with b := 0xFF } [(0x0020, 0x81)]) [0xD4, 0x20]
    (fun t => (t.b, t.ccr)) = some (0x81, 0xD8) := by
  rfl
theorem test_bita_v183 : after { base with a := 0x80 } [0x85, 0x80] (fun t => t.ccr) = some 0xD8 := by
  rfl
theorem test_bitb_v184 : after { base with b := 0xFE } [0xC5, 0x01] (fun t => t.ccr) = some 0xD4 := by
  rfl
theorem test_eora_v185 : after { base with a := 0x0F } [0x88, 0xFF] (fun t => (t.a, t.ccr)) = some (0xF0, 0xD8) := by
  rfl
theorem test_eorb_v186 : after { base with b := 0x55 } [0xC8, 0x55] (fun t => (t.b, t.ccr)) = some (0x00, 0xD4) := by
  rfl
theorem test_oraa_v187 : after { base with a := 0x01 } [0x8A, 0x80] (fun t => (t.a, t.ccr)) = some (0x81, 0xD8) := by
  rfl
theorem test_orab_v188 : after (pokes { base with b := 0x00 } [(0x1000, 0x00)]) [0xEA, 0x00]
    (fun t => t.ccr) = some 0xD4 := by
  rfl
theorem test_com_v189 : after (pokes base [(0x1000, 0xFF)]) [0x71, 0x10, 0x00]
    (fun t => (t.ccr, t.byteAt 0x1000)) = some (0xD5, 0x00) := by
  rfl
theorem test_coma_v190 : after { base with a := 0x00 } [0x41] (fun t => (t.a, t.ccr)) = some (0xFF, 0xD9) := by
  rfl
theorem test_comb_v191 : after { base with b := 0xAA } [0x51] (fun t => (t.b, t.ccr)) = some (0x55, 0xD1) := by
  rfl
theorem test_andcc_v193 : after { base with ccr := 0xFF } [0x10, 0x00] (fun t => t.ccr) = some 0x00 := by
  rfl
theorem test_orcc_v195 : after { base with ccr := 0x00 } [0x14, 0xFF] (fun t => t.ccr) = some 0xBF := by
  rfl
theorem test_bclr_v200 : after (pokes base [(0x1064, 0x03)]) [0x0D, 0xE0, 0x64, 0x01]
    (fun t => (t.ccr, t.byteAt 0x1064)) = some (0xD0, 0x02) := by
  rfl
theorem test_bset_v203 : after (pokes base [(0x1000, 0x01)]) [0x0C, 0x30, 0x10]
    (fun t => (t.x, t.ccr, t.byteAt 0x1000)) = some (0x1001, 0xD0, 0x11) := by
  rfl
theorem test_asl_v207 : after (pokes base [(0x1000, 0x41)]) [0x78, 0x10, 0x00]
    (fun t => (t.ccr, t.byteAt 0x1000)) = some (0xDA, 0x82) := by
  rfl
theorem test_asla_v208 : after { base with a := 0x80 } [0x48] (fun t => (t.a, t.ccr)) = some (0x00, 0xD7) := by
  rfl
theorem test_aslb_v209 : after { base with b := 0xC0 } [0x58] (fun t => (t.b, t.ccr)) = some (0x80, 0xD9) := by
  rfl
theorem test_asld_v212 : after { base with a := 0x00, b := 0xFF } [0x59]
    (fun t => (t.a, t.b, t.ccr)) = some (0x01, 0xFE, 0xD0) := by
  rfl
theorem test_asr_v213 : after (pokes base [(0x1000, 0x81)]) [0x67, 0x00]
    (fun t => (t.ccr, t.byteAt 0x1000)) = some (0xD9, 0xC0) := by
  rfl
theorem test_asra_v214 : after { base with a := 0x01 } [0x47] (fun t => (t.a, t.ccr)) = some (0x00, 0xD7) := by
  rfl
theorem test_asrb_v215 : after { base with b := 0x80 } [0x57] (fun t => (t.b, t.ccr)) = some (0xC0, 0xDA) := by
  rfl
theorem test_lsr_v220 : after (pokes base [(0x1000, 0x82)]) [0x74, 0x10, 0x00]
    (fun t => (t.ccr, t.byteAt 0x1000)) = some (0xD0, 0x41) := by
  rfl
theorem test_lsra_v221 : after { base with a := 0x01, ccr := 0xD8 } [0x44]
    (fun t => (t.a, t.ccr)) = some (0x00, 0xD7) := by
  rfl
theorem test_lsrb_v222 : after { base with b := 0xFF } [0x54] (fun t => (t.b, t.ccr)) = some (0x7F, 0xD3) := by
  rfl
theorem test_lsrd_v223 : after { base with a := 0x81, b := 0x01 } [0x49]
    (fun t => (t.a, t.b, t.ccr)) = some (0x40, 0x80, 0xD3) := by
  rfl
theorem test_rol_v225 : after (pokes { base with ccr := 0xD1 } [(0x1000, 0x80)]) [0x75, 0x10, 0x00]
    (fun t => (t.ccr, t.byteAt 0x1000)) = some (0xD3, 0x01) := by
  rfl
theorem test_rola_v226 : after { base with a := 0x00, ccr := 0xD1 } [0x45]
    (fun t => (t.a, t.ccr)) = some (0x01, 0xD0) := by
  rfl
theorem test_rolb_v227 : after { base with b := 0x40 } [0x55] (fun t => (t.b, t.ccr)) = some (0x80, 0xDA) := by
  rfl
theorem test_ror_v228 : after (pokes base [(0x1000, 0x01)]) [0x76, 0x10, 0x00]
    (fun t => (t.ccr, t.byteAt 0x1000)) = some (0xD7, 0x00) := by
  rfl
theorem test_rora_v229 : after { base with a := 0x00, ccr := 0xD1 } [0x46]
    (fun t => (t.a, t.ccr)) = some (0x80, 0xDA) := by
  rfl
theorem test_rorb_v230 : after { base with b := 0xFF } [0x56] (fun t => (t.b, t.ccr)) = some (0x7F, 0xD3) := by
  rfl
theorem test_bra_v233 : after base [0x20, 0x7F] (fun t => (t.ccr, t.pc)) = some (0xD0, 0x8081) := by
  rfl
theorem test_bra_v235 : after { base with pc := 0xFFFE } [0x20, 0x00] (fun t => (t.ccr, t.pc)) = some (0xD0, 0x0000) := by
  rfl
theorem test_beq_v237 : after { base with ccr := 0xD4 } [0x27, 0x10] (fun t => (t.ccr, t.pc)) = some (0xD4, 0x8012) := by
  rfl
theorem test_beq_v236 : after { base with ccr := 0xD0 } [0x27, 0x10] (fun t => (t.ccr, t.pc)) = some (0xD0, 0x8002) := by
  rfl
theorem test_bne_v238 : after { base with ccr := 0xD0 } [0x26, 0xF0] (fun t => (t.ccr, t.pc)) = some (0xD0, 0x7FF2) := by
  rfl
theorem test_bls_v239 : after { base with ccr := 0xD1 } [0x23, 0x04] (fun t => (t.ccr, t.pc)) = some (0xD1, 0x8006) := by
  rfl
theorem test_bcs_v240 : after { base with ccr := 0xD1 } [0x25, 0x04] (fun t => (t.ccr, t.pc)) = some (0xD1, 0x8006) := by
  rfl
theorem test_brclr_v243 : after (pokes base [(0x0020, 0xF0)]) [0x4F, 0x20, 0x1F, 0x05]
    (fun t => (t.ccr, t.pc)) = some (0xD0, 0x8004) := by
  rfl
theorem test_brset_v246 : after (pokes base [(0x0020, 0xF0)]) [0x4E, 0x20, 0x18, 0x05]
    (fun t => (t.ccr, t.pc)) = some (0xD0, 0x8004) := by
  rfl
theorem test_brclr_v249 : after (pokes base [(0x3234, 0x00)]) [0x0F, 0xEA, 0x12, 0x34, 0x01, 0x02]
    (fun t => (t.ccr, t.pc)) = some (0xD0, 0x8008) := by
  rfl
theorem test_jmp_v254 : after (pokes base [(0x2002, 0x12), (0x2003, 0x34)]) [0x05, 0xEB, 0x00, 0x02]
    (fun t => (t.ccr, t.pc)) = some (0xD0, 0x1234) := by
  rfl
theorem test_bsr_v256 : after base [0x07, 0xFE]
    (fun t => (t.sp, t.ccr, t.byteAt 0x0BFE, t.byteAt 0x0BFF, t.pc)) = some (0x0BFE, 0xD0, 0x80, 0x02, 0x8000) := by
  rfl
theorem test_jsr_v259 : after base [0x15, 0x80]
    (fun t => (t.sp, t.ccr, t.byteAt 0x0BFE, t.byteAt 0x0BFF, t.pc)) = some (0x0BFE, 0xD0, 0x80, 0x02, 0x0C00) := by
  rfl
theorem test_rts_v262 : after (pokes { base with sp := 0x0BFE } [(0x0BFE, 0x80), (0x0BFF, 0x03)]) [0x3D]
    (fun t => (t.sp, t.ccr, t.pc)) = some (0x0C00, 0xD0, 0x8003) := by
  rfl
theorem test_nop_v263 : after base [0xA7] (fun t => (t.ccr, t.pc)) = some (0xD0, 0x8001) := by
  rfl
theorem test_dbeq_v264 : after { base with a := 0x01 } [0x04, 0x00, 0x10]
    (fun t => (t.a, t.ccr, t.pc)) = some (0x00, 0xD0, 0x8013) := by
  rfl
theorem test_dbne_v266 : after { base with b := 0x03, pc := 0x8005 } [0x04, 0x31, 0xFA]
    (fun t => (t.b, t.ccr, t.pc)) = some (0x02, 0xD0, 0x8002) := by
  rfl
theorem test_dbne_v268 : after { base with a := 0x01, b := 0x00 } [0x04, 0x24, 0x00]
    (fun t => (t.a, t.b, t.ccr)) = some (0x00, 0xFF, 0xD0) := by
  rfl
theorem test_ibeq_v269 : after { base with x := 0xFFFF } [0x04, 0x85, 0x04]
    (fun t => (t.x, t.ccr, t.pc)) = some (0x0000, 0xD0, 0x8007) := by
  rfl
theorem test_ibne_v270 : after { base with a := 0xFF, b := 0xFF } [0x04, 0xA4, 0x04]
    (fun t => (t.a, t.b, t.ccr, t.pc)) = some (0x00, 0x00, 0xD0, 0x8003) := by
  rfl
theorem test_tbeq_v272 : after { base with y := 0x0000, ccr := 0xD0 } [0x04, 0x46, 0x20]
    (fun t => (t.ccr, t.pc)) = some (0xD0, 0x8023) := by
  rfl
theorem test_tbne_v275 : after { base with b := 0x01 } [0x04, 0x71, 0x00]
    (fun t => (t.ccr, t.pc)) = some (0xD0, 0x7F03) := by
  rfl
theorem test_stop_v285 : after { base with ccr := 0xD0 } [0x18, 0x3E] (fun t => (t.ccr, t.pc)) = some (0xD0, 0x8002) := by
  rfl

/-! ## Exceptions, stops and parameters -/

/-- The registers of the vectors of SWI, RTI, STOP and the interrupts. -/
def full (ccr : Byte) : State := { base with a := 0x11, b := 0x22, x := 0x3344, y := 0x5566, ccr := ccr }

theorem test_swi_v281 : after (pokes (full 0xD0) [(0xFFF6, 0x90)]) [0x3F] (fun t => (t.sp, t.pc, t.ccr, bytesAt t 0x0BF7 9)) =
    some (0x0BF7, 0x9000, 0xD0, [0xD0, 0x22, 0x11, 0x33, 0x44, 0x55, 0x66, 0x80, 0x01]) := by rfl

theorem test_rti_v283 : after (pokes { base with sp := 0x0BF7, ccr := 0x91, pc := 0x9005 } [(0x0BF7, 0xC1), (0x0BF8, 0x22),
    (0x0BF9, 0x11), (0x0BFA, 0x33), (0x0BFB, 0x44), (0x0BFC, 0x55), (0x0BFD, 0x66), (0x0BFE, 0x80), (0x0BFF, 0x01)]) [0x0B]
    (fun t => (t.a, t.b, t.x, t.y, t.sp, t.pc, t.ccr)) = some (0x11, 0x22, 0x3344, 0x5566, 0x0C00, 0x8001, 0x81) := by rfl

theorem test_stop_v286 : after (full 0x40) [0x18, 0x3E] (fun t => (t.stopped, t.sp, t.pc, t.ccr, bytesAt t 0x0BF7 9)) =
    some (true, 0x0BF7, 0x8002, 0x40, [0x40, 0x22, 0x11, 0x33, 0x44, 0x55, 0x66, 0x80, 0x02]) := by rfl

/-- The second boundary of V287: the stopped CPU takes the request and pushes no second frame. -/
theorem test_wake_v287 : (match step (pokes { full 0x40 with stopped := true, sp := 0x0BF7, inputs := [⟨false, [1]⟩] }
      [(0xFFF2, 0x90)]) with
    | .next t => some (t.stopped, t.sp, t.pc, t.ccr)
    | _ => none) = some (false, 0x0BF7, 0x9000, 0x50) := by rfl

/-- The second boundary of V289: an X-class request sets X and I. -/
theorem test_xirq_v289 : (match step (pokes { full 0x80 with pc := 0x8001, inputs := [⟨false, [0]⟩] } [(0xFFF4, 0x90)]) with
    | .next t => some (t.sp, t.pc, t.ccr, bytesAt t 0x0BFD 3)
    | _ => none) = some (0x0BF7, 0x9000, 0xD0, [0x66, 0x80, 0x01]) := by rfl

theorem test_tfr_widen_v89_v90 : (base.cfg.tfrWiden = .sext ∧
      after { base with a := 0x80 } [0xB7, 0x05] (fun t => t.x) = some 0xFF80) ∧
    after { base with a := 0x80, cfg := { base.cfg with tfrWiden := .zext } } [0xB7, 0x05] (fun t => t.x) = some 0x0080 := by
  and_intros <;> rfl

theorem test_refuse_overlap_v32 : stopOf base [0xEE, 0x31] = some (.refused .autoIndexOverlap) := by rfl

theorem test_refuse_pc_base_v68 : stopOf base [0x18, 0x0D, 0xC0, 0x90, 0x00] = some (.refused .pcRelativeTrailing) := by rfl

theorem test_illegal_v104_v241_v279 : stopOf base [0xB7, 0x30] = some (.fault (.illegalOpcode [0xB7, 0x30])) ∧
    stopOf base [0x21, 0x00] = some (.fault (.illegalOpcode [0x21])) ∧
    stopOf base [0x04, 0x02, 0x00] = some (.fault (.illegalOpcode [0x04, 0x02])) := by
  and_intros <;> rfl

/-- The map of V301: nothing from $9000 to $9FFF. -/
def hole : Config := { Config.recommended with
  memMap := [⟨0x0000, 0x9000, .plain, true, true, true⟩, ⟨0xA000, 0x6000, .plain, true, true, true⟩] }

theorem test_unbacked_v301 : stopOf { base with cfg := hole } [0xB6, 0x90, 0x00] = some (.fault (.unadmittedRead 0x9000)) := by rfl

theorem test_fetch_word : decodeTableWord 16 0x5A86 = some (.ldaa (.imm 0x5A)) ∧
    (match step (State.reset.withFetchWord 16 0x5A86) with
    | .next t => some (t.a, t.pc)
    | _ => none) = some (0x5A, 0x0002) := by
  and_intros <;> rfl

/-! ## The end of a run (D25) -/

/-- `20 FE` at PC ends a run, `A7` does not, and a value of PC that the harness names does; the marker can be left out. -/
theorem test_run_ended_at : (base.placeAtPc [0x20, 0xFE]).runEnded = true ∧ (base.placeAtPc [0xA7]).runEnded = false ∧
    State.runEnded { base.placeAtPc [0xA7] with cfg := { Config.recommended with endOfRun := ⟨false, false, [0x8000]⟩ } } = true ∧
    State.runEnded { base.placeAtPc [0x20, 0xFE] with cfg := { Config.recommended with endOfRun := ⟨false, true, []⟩ } } = false := by
  and_intros <;> rfl

/-- Stopped with I and X set no source can wake the CPU; with I clear one can; with no sources none can (U15). -/
theorem test_run_ended_stopped : State.runEnded { base with stopped := true, ccr := 0x50 } = true ∧
    State.runEnded { base with stopped := true, ccr := 0x40 } = false ∧
    State.runEnded { base with stopped := true, ccr := 0x40, cfg := { Config.recommended with irqSources := [] } } = true := by
  and_intros <;> rfl

/-- `A7 20 FE` ends after one step at the branch to itself. -/
theorem test_run_to_end : (match (base.placeAtPc [0xA7, 0x20, 0xFE]).runToEnd 5 with
    | .ended t => some t.pc
    | _ => none) = some 0x8001 := by rfl

/-! ## Witnesses: concrete states that meet the hypotheses of the statements -/

/-- With the recommended map all memory is plain. -/
theorem allPlain_of (s : State) (h : s.cfg = Config.recommended) : s.AllPlain := by
  intro a k
  have ha : a.toNat < 65536 := a.isLt
  constructor
  · cases k <;> simp [State.admits, State.region, h, Config.recommended, regionHolds, regionAllows, ha]
  · simp [State.isDevice, State.region, h, Config.recommended, regionHolds, ha]

/-- With the recommended map every range of memory is plain. -/
theorem plainFrom_of (s : State) (k : Access) (a : Word) (n : Nat) (h : s.cfg = Config.recommended) : s.PlainFrom k a n :=
  fun _ _ => allPlain_of s h _ k

/-- Bytes that stand at PC can be fetched, with the recommended map and nothing stale. -/
theorem codeAtPc_of (s : State) (bytes : List Byte) (h : s.cfg = Config.recommended) (hs : s.stale = [])
    (hb : ∀ k, (hk : k < bytes.length) → s.byteAt (s.pc + BitVec.ofNat 16 k) = bytes[k]) : s.CodeAtPc bytes :=
  fun k hk => ⟨allPlain_of s h _ _, by rw [hs]; simp, hb k hk⟩

theorem witness_DecodeEncode : (Instr.movw (.mem (.idx (.auto .x true 1))) (.ext 0x9000)).wellFormed = true ∧
    (Instr.lsl (.ext 0xFFFF)).wellFormed = true := ⟨rfl, rfl⟩

theorem witness_DecodeSound : decode [0xB7, 0xC5, 0xFF] = .ok (.exg .d .x, [0xFF]) := rfl

theorem witness_UnlistedEncodings :
    (0x4B : Byte) ∈ ([0x00, 0x01, 0x0A, 0x11, 0x13, 0x21, 0x3C, 0x3E, 0x4A, 0x4B] : List Byte) ∧
    (0x3D : Byte) ∉ ([0x00, 0x01, 0x02, 0x03, 0x04, 0x05, 0x06, 0x07, 0x08, 0x09, 0x0A, 0x0B, 0x0C, 0x0D, 0x0E, 0x0F,
      0x10, 0x11, 0x16, 0x17, 0x3E] : List Byte) ∧
    ((0x08 : Byte).getLsbD 3 = true ∧ (0xB0 : Byte).extractLsb' 4 3 = 3 ∧ (0x03 : Byte).extractLsb' 0 3 = 3) ∧
    ((0x08 : Byte).getLsbD 3 = true ∧ 6 ≤ ((0xC0 : Byte).extractLsb' 5 3).toNat ∧ (0x02 : Byte).extractLsb' 0 3 = 2 ∧
      (0x03 : Byte).extractLsb' 0 3 = 3) ∧
    ((0xE3 : Byte) &&& 0xE3 = 0xE3 ∧ (0xFF : Byte) &&& 0xE3 = 0xE3) ∧
    ((0xE0 : Byte) &&& 0xE4 = 0xE0 ∧ (0xFF : Byte) &&& 0xE7 = 0xE7) ∧
    (¬((0xFE : Byte) &&& 0xE4 = 0xE0 ∨ (0xFE : Byte) &&& 0xE7 = 0xE7) ∧ (0xE0 : Byte) &&& 0xE4 = 0xE0 ∧
      (0xFF : Byte) &&& 0xE7 = 0xE7) := by decide

/-- `base` with one instruction at PC. -/
def at_ (bytes : List Byte) : State := base.placeAtPc bytes

theorem quiet_at (bytes : List Byte) : (at_ bytes).Quiet := ⟨rfl, rfl, rfl⟩

theorem witness_StepRunsDecoded : (at_ [0x86, 0x5A]).Quiet ∧ decode [0x86, 0x5A] = .ok (.ldaa (.imm 0x5A), []) ∧
    (at_ [0x86, 0x5A]).CodeAtPc [0x86, 0x5A] :=
  ⟨quiet_at _, rfl, codeAtPc_of _ _ rfl rfl (by decide +kernel)⟩

theorem witness_StepFaultsOnUnlisted : [0x18, 0xFF].length ≤ 6 ∧ (at_ [0x18, 0xFF]).Quiet ∧
    decode [0x18, 0xFF] = .error (.illegal [0x18, 0xFF]) ∧ (at_ [0x18, 0xFF]).CodeAtPc [0x18, 0xFF] :=
  ⟨by decide, quiet_at _, rfl, codeAtPc_of _ _ rfl rfl (by decide +kernel)⟩

/-- Code that can be fetched up to a byte, with the recommended map. -/
theorem codeUpTo_of (s : State) (bytes : List Byte) (k : Nat) (h : s.cfg = Config.recommended)
    (hb : ∀ j, j < k → s.pc + BitVec.ofNat 16 j ∉ s.stale ∧ bytes[j]? = some (s.byteAt (s.pc + BitVec.ofNat 16 j))) :
    s.CodeUpTo bytes k := fun j hj => ⟨allPlain_of s h _ _, (hb j hj).1, (hb j hj).2⟩

/-- `base` where the given bytes are stale. -/
def stale (l : List Word) : State := { base with stale := l }

/-- The last byte of the window, the first one after it, a stale byte at PC. -/
theorem witness_SelfModification :
    (base.PlainAt .write 0x8005 ∧ (∃ t, base.write8 0x8005 0xAA = .ok t) ∧ (0x8005#16 - base.pc).toNat < base.cfg.queueBytes) ∧
    (base.PlainAt .write 0x8006 ∧ (∃ t, base.write8 0x8006 0xAA = .ok t) ∧
      ¬(0x8006#16 - base.pc).toNat < base.cfg.queueBytes) ∧
    ((stale [0x8000]).Quiet ∧ (stale [0x8000]).admits .fetch 0x8000 = true) :=
  ⟨⟨allPlain_of _ rfl _ _, ⟨_, rfl⟩, by decide⟩, ⟨allPlain_of _ rfl _ _, ⟨_, rfl⟩, by decide⟩, ⟨rfl, rfl, rfl⟩, rfl⟩

/-- `86 5A` at PC whose last byte is stale. -/
def staleOperand : State := { at_ [0x86, 0x5A] with stale := [0x8001] }

theorem witness_SelfModification_operand : staleOperand.Quiet ∧ decode [0x86, 0x5A] = .ok (.ldaa (.imm 0x5A), []) ∧
    staleOperand.CodeUpTo [0x86, 0x5A] 1 ∧ staleOperand.admits .fetch 0x8001 = true ∧ (0x8001 : Word) ∈ staleOperand.stale :=
  ⟨⟨rfl, rfl, rfl⟩, rfl, codeUpTo_of _ _ _ rfl (by decide +kernel), rfl, by decide⟩

/-- Branches taken and not taken, a loop primitive at its last and its last but one count. -/
theorem witness_SelfModification_transfers :
    ((stale [0x8003]).transfers (.bcc 0x00) = true ∧ ∃ t, exec (.bcc 0x00) (stale [0x8003]) = .next t) ∧
    ((stale [0x8003]).transfers (.bcs 0x00) = false ∧ ∃ t, exec (.bcs 0x00) (stale [0x8003]) = .next t) ∧
    (State.transfers { stale [0x8003] with b := 1 } (.dbne .b 0x1FE) = false ∧
      ∃ t, exec (.dbne .b 0x1FE) { stale [0x8003] with b := 1 } = .next t) ∧
    (State.transfers { stale [0x8003] with b := 2 } (.dbne .b 0x1FE) = true ∧
      ∃ t, exec (.dbne .b 0x1FE) { stale [0x8003] with b := 2 } = .next t) :=
  ⟨⟨rfl, _, rfl⟩, ⟨rfl, _, rfl⟩, ⟨rfl, _, rfl⟩, rfl, _, rfl⟩

/-- A reset, and an interrupt of a stopped CPU. -/
theorem witness_SelfModification_events :
    (State.popInput { stale [0x8003] with inputs := [⟨true, []⟩] }).1.reset = true ∧
    (∃ t, step { stale [0x8003] with inputs := [⟨true, []⟩] } = .next t) ∧
    (State.chosenIrq { stale [0x8003] with ccr := 0x40, stopped := true } [1]).isSome = true ∧
    ∃ t, step { stale [0x8003] with ccr := 0x40, stopped := true, inputs := [⟨false, [1]⟩] } = .next t :=
  ⟨rfl, ⟨_, rfl⟩, rfl, _, rfl⟩

/-- Both sides of the auto adjustment's range, and a pointer at the top of memory. -/
theorem witness_EffectiveAddresses : (7#4).toNat < 8 ∧ 8 ≤ (8#4).toNat ∧
    base.PlainFrom .read (base.base .x + 0xEFFF) 2 ∧ base.PlainFrom .read (base.base .x + mkWord base.a base.b) 2 :=
  ⟨by decide, by decide, plainFrom_of _ _ _ _ rfl, plainFrom_of _ _ _ _ rfl⟩

theorem witness_OperandValues : base.ea (.dir 0xFF) = .ok (0x00FF, base) ∧ base.PlainFrom .read 0x00FF 1 ∧
    base.PlainFrom .read 0x00FF 2 := ⟨rfl, plainFrom_of _ _ _ _ rfl, plainFrom_of _ _ _ _ rfl⟩

theorem wf_base : Memory.wf base.mem := by decide

theorem witness_WordAccess : Memory.wf base.mem ∧ base.PlainFrom .write 0xFFFF 2 ∧ base.PlainFrom .read 0xFFFF 2 :=
  ⟨wf_base, plainFrom_of _ _ _ _ rfl, plainFrom_of _ _ _ _ rfl⟩

theorem witness_StackRoundTrip : Memory.wf base.mem ∧ base.PlainFrom .write (base.sp - 2) 2 ∧
    base.PlainFrom .read (base.sp - 2) 2 ∧ ∃ t u, exec .pshx base = .next t ∧ exec .puly t = .next u :=
  ⟨wf_base, plainFrom_of _ _ _ _ rfl, plainFrom_of _ _ _ _ rfl, _, _, rfl, rfl⟩

/-- `base` where `MemMap` holds nothing, and where all of it is a device. -/
def bare (l : List Region) : State := { base with cfg := { Config.recommended with memMap := l } }

/-- `base` where the first `n` bytes of the address space are plain memory and nothing is behind the others. -/
def upTo (n : Nat) : State := bare [⟨0, n, .plain, true, true, true⟩]

/-- The access after the first `n` is the first that is not admitted. -/
theorem stopsAt_of (s : State) (k : Access) (as : List Word) (n : Nat) (a : Word) (h : as = as.take n ++ a :: as.drop (n + 1))
    (hb : (as.take n).all (s.admits k) = true) (ha : s.admits k a = false) : s.StopsAt k as a :=
  ⟨_, _, h, fun b hm => List.all_eq_true.1 hb b hm, ha⟩

/-- Bytes, and words of which either byte is missing; the word at $FFFF ends at $0000. -/
theorem witness_UnadmittedAccess : (bare []).ea (.ext 0xFFFF) = .ok (0xFFFF, bare []) ∧ (bare []).admits .read 0xFFFF = false ∧
    (bare []).admits .write 0xFFFF = false ∧ memOnPc (.ext 0xFFFF) = false ∧
    ((bare [⟨0xFFFF, 1, .plain, true, false, false⟩]).ea (.ext 0xFFFF) =
        .ok (0xFFFF, bare [⟨0xFFFF, 1, .plain, true, false, false⟩]) ∧
      (bare [⟨0xFFFF, 1, .plain, true, false, false⟩]).admits .read 0xFFFF = true ∧
      (bare [⟨0xFFFF, 1, .plain, true, false, false⟩]).admits .write 0xFFFF = false) ∧
    (bare []).StopsAt .read [0xFFFF, 0xFFFF + 1] 0xFFFF ∧
    (bare [⟨0xFFFF, 1, .plain, true, true, false⟩]).StopsAt .read [0xFFFF, 0xFFFF + 1] 0x0000 ∧
    (upTo 0xFFFF).StopsAt .write [0xFFFE, 0xFFFE + 1] 0xFFFF ∧ autoOverlap (.std (.ext 0xFFFE)) = false :=
  ⟨rfl, rfl, rfl, rfl, ⟨rfl, rfl, rfl⟩, stopsAt_of _ _ _ 0 _ (by decide +kernel) (by decide +kernel) (by decide +kernel), stopsAt_of _ _ _ 1 _ (by decide +kernel) (by decide +kernel) (by decide +kernel),
    stopsAt_of _ _ _ 1 _ (by decide +kernel) (by decide +kernel) (by decide +kernel), rfl⟩

theorem witness_UnadmittedAccess_moves :
    pcTrailing (.movw (.mem (.ext 0xFFFE)) (.idx (.auto .x true 0))) = false ∧
    autoOverlap (.movw (.mem (.ext 0xFFFE)) (.idx (.auto .x true 0))) = false ∧
    (upTo 0xFFFF).opnd8 (.imm 0x5A) = .ok (0x5A, upTo 0xFFFF) ∧ (upTo 0xFFFF).opnd16 (.imm 0x5AA5) = .ok (0x5AA5, upTo 0xFFFF) ∧
    (upTo 0xFFFF).ea (.ext 0xFFFF) = .ok (0xFFFF, upTo 0xFFFF) ∧ (upTo 0xFFFF).StopsAt .write [0xFFFF] 0xFFFF ∧
    (upTo 0xFFFF).StopsAt .read [0xFFFF] 0xFFFF :=
  ⟨rfl, rfl, rfl, rfl, rfl, stopsAt_of _ _ _ 0 _ (by decide +kernel) (by decide +kernel) (by decide +kernel), stopsAt_of _ _ _ 0 _ (by decide +kernel) (by decide +kernel) (by decide +kernel)⟩

/-- The low byte of a pointer is missing; the stack meets the missing $FFFF from both sides. -/
theorem witness_UnadmittedAccess_stack :
    (upTo 0xFFFF).StopsAt .read [0xFFFE, 0xFFFE + 1] 0xFFFF ∧
    State.StopsAt { upTo 0xFFFF with sp := 0x0000 } .write [0x0000 - 1] 0xFFFF ∧
    State.StopsAt { upTo 0xFFFF with sp := 0x0000 } .write [0x0000 - 2, 0x0000 - 1] 0xFFFF ∧
    State.StopsAt { upTo 0xFFFF with sp := 0xFFFF } .read [0xFFFF] 0xFFFF ∧
    State.StopsAt { upTo 0xFFFF with sp := 0xFFFE } .read [0xFFFE, 0xFFFE + 1] 0xFFFF :=
  ⟨stopsAt_of _ _ _ 1 _ (by decide +kernel) (by decide +kernel) (by decide +kernel), stopsAt_of _ _ _ 0 _ (by decide +kernel) (by decide +kernel) (by decide +kernel), stopsAt_of _ _ _ 1 _ (by decide +kernel) (by decide +kernel) (by decide +kernel),
    stopsAt_of _ _ _ 0 _ (by decide +kernel) (by decide +kernel) (by decide +kernel), stopsAt_of _ _ _ 1 _ (by decide +kernel) (by decide +kernel) (by decide +kernel)⟩

/-- The last byte of a frame is missing, written (SP = $0008) and read (SP = $FFF9). -/
theorem witness_UnadmittedAccess_frames :
    State.StopsAt { upTo 0xFFFF with sp := 0x0008 } .write (frameWrites 0x0008) 0xFFFF ∧
    State.StopsAt { upTo 0xFFFF with sp := 0xFFF9 } .read (frameReads 0xFFF9) 0xFFFF ∧
    State.flag { upTo 0xFFFF with sp := 0x0008, ccr := 0x40 } .s = false :=
  ⟨stopsAt_of _ _ _ 8 _ (by decide +kernel) (by decide +kernel) (by decide +kernel), stopsAt_of _ _ _ 8 _ (by decide +kernel) (by decide +kernel) (by decide +kernel), by decide⟩

/-- `upTo n` with an input at the coming boundary and I clear. -/
def upToWith (n : Nat) (inp : Input) : State := { upTo n with ccr := 0x40, inputs := [inp] }

/-- The low byte of a vector is missing: of SWI, of an interrupt of a CPU (running, then stopped), of reset. -/
theorem witness_UnadmittedAccess_vectors :
    ((∀ b ∈ frameWrites 0x0C00, (upTo 0xFFF7).admits .write b = true) ∧
      (upTo 0xFFF7).StopsAt .read [0xFFF6, 0xFFF6 + 1] 0xFFF7) ∧
    ((upToWith 0xFFF3 ⟨false, [1]⟩).popInput.1 = ⟨false, [1]⟩ ∧
      (upToWith 0xFFF3 ⟨false, [1]⟩).chosenIrq [1] = some ⟨1, 0xFFF2, .i⟩ ∧
      (upToWith 0xFFF3 ⟨false, [1]⟩).StopsAt .read [0xFFF2, 0xFFF2 + 1] 0xFFF3 ∧
      ∀ b ∈ frameWrites 0x0C00, (upToWith 0xFFF3 ⟨false, [1]⟩).admits .write b = true) ∧
    ((upToWith 0xFFFF ⟨true, [1]⟩).popInput.1.reset = true ∧
      (upToWith 0xFFFF ⟨true, [1]⟩).StopsAt .read [0xFFFE, 0xFFFE + 1] 0xFFFF) :=
  ⟨⟨fun b hm => List.all_eq_true.1 (show (frameWrites 0x0C00).all ((upTo 0xFFF7).admits .write) = true by decide +kernel) b hm,
      stopsAt_of _ _ _ 1 _ (by decide +kernel) (by decide +kernel) (by decide +kernel)⟩,
    ⟨rfl, rfl, stopsAt_of _ _ _ 1 _ (by decide +kernel) (by decide +kernel) (by decide +kernel),
      fun b hm => List.all_eq_true.1
        (show (frameWrites 0x0C00).all ((upToWith 0xFFF3 ⟨false, [1]⟩).admits .write) = true by decide +kernel) b hm⟩,
    rfl, stopsAt_of _ _ _ 1 _ (by decide +kernel) (by decide +kernel) (by decide +kernel)⟩

/-- `86 5A` whose last byte is missing. -/
def cut : State := State.placeAtPc { upTo 0xFFFF with pc := 0xFFFE } [0x86, 0x5A]

theorem witness_UnadmittedAccess_fetch : ((bare []).Quiet ∧ (bare []).admits .fetch (bare []).pc = false) ∧ cut.Quiet ∧
    decode [0x86, 0x5A] = .ok (.ldaa (.imm 0x5A), []) ∧ cut.CodeUpTo [0x86, 0x5A] 1 ∧ cut.admits .fetch 0xFFFF = false ∧
    exec (.ldaa (.mem (.ext 0xFFFF))) (bare []) = .fault (.unadmittedRead 0xFFFF) := by
  refine ⟨⟨⟨rfl, rfl, rfl⟩, rfl⟩, ⟨rfl, rfl, rfl⟩, rfl, ?_, rfl, rfl⟩
  intro j hj
  obtain rfl : j = 0 := by omega
  exact ⟨⟨rfl, rfl⟩, by decide, rfl⟩

/-- One device register at $0200. -/
def device : State := bare [⟨0x0200, 1, .device, true, true, false⟩]

theorem witness_DeviceAccess : device.ea (.ext 0x0200) = .ok (0x0200, device) ∧ device.admits .read 0x0200 = true ∧
    device.admits .write 0x0200 = true ∧ device.isDevice 0x0200 = true := by decide +kernel

theorem witness_CompareThenBranch :
    (base.opnd8 (.imm 0x80) = .ok (0x80, base) ∧ ∃ t, exec (.cmpa (.imm 0x80)) base = .next t) ∧
    (base.opnd16 (.imm 0x8000) = .ok (0x8000, base) ∧ ∃ t, exec (.cpd (.imm 0x8000)) base = .next t) :=
  ⟨⟨rfl, _, rfl⟩, ⟨rfl, _, rfl⟩⟩

theorem witness_StepKeepsInvariant : (at_ [0x36]).Inv ∧ ∃ t, step (at_ [0x36]) = .next t :=
  ⟨⟨by decide +kernel, by decide +kernel⟩, _, rfl⟩

theorem witness_NoInstructionSetsX : ∃ t, exec (.orcc 0xFF) base = .next t ∧ t.flag .x = true := ⟨_, rfl, by decide⟩

theorem witness_OnlyStopStops : State.stopped { base with ccr := 0x40 } = false ∧
    ∃ t, exec .stop { base with ccr := 0x40 } = .next t := ⟨rfl, _, rfl⟩

theorem witness_HalfCarryOnlyByAdditions : mayChangeH (.tfr .a .b) = false ∧ ∃ t, exec (.tfr .a .b) base = .next t :=
  ⟨rfl, _, rfl⟩

theorem witness_EveryFormCompletes : base.AllPlain ∧ autoOverlap (.ldx (.mem (.idx (.auto .y true 1)))) = false ∧
    pcTrailing (.ldx (.mem (.idx (.auto .y true 1)))) = false := ⟨allPlain_of _ rfl, rfl, rfl⟩

theorem witness_FormsWithoutMeaning : pcTrailing (.bset (.idx (.ofs5 .pc 0)) 0x01) = true ∧
    pcTrailing (.ldx (.mem (.idx (.auto .x true 1)))) = false ∧
    autoOverlap (.ldx (.mem (.idx (.auto .x true 1)))) = true := ⟨rfl, rfl, rfl⟩

/-- `base` with a reset request and an X-class request at the coming boundary. -/
def resetting : State := { base with inputs := [⟨true, [0]⟩] }

theorem witness_ResetEvent : resetting.inputs = [⟨true, [0]⟩] ∧ resetting.PlainFrom .read resetting.cfg.resetVector 2 :=
  ⟨rfl, plainFrom_of _ _ _ _ rfl⟩

/-- Both classes masked; the X class enabled with both requests pending; the I class alone enabled. -/
theorem witness_InterruptChoice : (base.flag .i = true ∧ base.flag .x = true) ∧
    State.chosenIrq { base with ccr := 0x80 } [1, 0] = some ⟨0, 0xFFF4, .x⟩ ∧
    State.chosenIrq { base with ccr := 0x40 } [1, 0] = some ⟨1, 0xFFF2, .i⟩ := by decide +kernel

/-- A running and a stopped CPU with an I-class request, the frame across address 0. -/
def asked (stopped : Bool) : State := { base with ccr := 0xC0, sp := 0x0004, stopped := stopped, inputs := [⟨false, [1]⟩] }

theorem witness_InterruptEntry : (asked false).inputs = [⟨false, [1]⟩] ∧ (asked false).chosenIrq [1] = some ⟨1, 0xFFF2, .i⟩ ∧
    (asked false).stopped = false ∧ Memory.wf (asked false).mem ∧ (asked false).PlainFrom .write ((asked false).sp - 9) 9 ∧
    (asked false).PlainFrom .read 0xFFF2 2 :=
  ⟨rfl, rfl, rfl, wf_base, plainFrom_of _ _ _ _ rfl, plainFrom_of _ _ _ _ rfl⟩

theorem witness_WakeAndWait : ((asked true).inputs = [⟨false, [1]⟩] ∧ (asked true).chosenIrq [1] = some ⟨1, 0xFFF2, .i⟩ ∧
      (asked true).stopped = true ∧ (asked true).PlainFrom .read 0xFFF2 2) ∧
    (State.stopped { base with stopped := true } = true ∧ (State.popInput { base with stopped := true }).1.reset = false ∧
      State.chosenIrq { base with stopped := true } [] = none) :=
  ⟨⟨rfl, rfl, rfl, plainFrom_of _ _ _ _ rfl⟩, rfl, rfl, rfl⟩

/-- The frame of SWI, RTI and STOP across address 0. -/
def low : State := { base with sp := 0x0004, ccr := 0x40 }

theorem witness_SwiEntry : Memory.wf low.mem ∧ low.stopped = false ∧ low.PlainFrom .write (low.sp - 9) 9 ∧
    low.PlainFrom .read low.cfg.swiVector 2 := ⟨wf_base, rfl, plainFrom_of _ _ _ _ rfl, plainFrom_of _ _ _ _ rfl⟩

theorem witness_RtiReturn : State.PlainFrom { base with sp := 0xFFFC } .read 0xFFFC 9 := plainFrom_of _ _ _ _ rfl

theorem witness_SwiRtiRoundTrip : Memory.wf low.mem ∧ low.PlainFrom .write (low.sp - 9) 9 ∧
    low.PlainFrom .read (low.sp - 9) 9 ∧ low.PlainFrom .read low.cfg.swiVector 2 ∧
    ∃ t h : State, exec .swi low = .next t ∧ h.cfg = t.cfg ∧ h.sp = t.sp ∧
      ∀ k, k < 9 → h.byteAt (t.sp + BitVec.ofNat 16 k) = t.byteAt (t.sp + BitVec.ofNat 16 k) :=
  ⟨wf_base, plainFrom_of _ _ _ _ rfl, plainFrom_of _ _ _ _ rfl, plainFrom_of _ _ _ _ rfl, _, _, rfl, rfl, rfl,
    fun _ _ => rfl⟩

theorem witness_StopInstruction : base.flag .s = true ∧ low.flag .s = false ∧ Memory.wf low.mem ∧
    low.PlainFrom .write (low.sp - 9) 9 := ⟨by decide, by decide, wf_base, plainFrom_of _ _ _ _ rfl⟩

/-- An operand through an auto form: `1,X+` at $FFFF, the last byte of memory. -/
theorem witness_operand8 : State.opnd8 { base with x := 0xFFFF } (.mem (.idx (.auto .x true 0))) =
    .ok (0x00, { base with x := 0x0000 }) := by rfl

/-- An operand through an auto form: `2,Y+` at $FFFF, a word across the end of memory. -/
theorem witness_operand16 : State.opnd16 { base with y := 0xFFFF } (.mem (.idx (.auto .y true 1))) =
    .ok (0x0000, { base with y := 0x0001 }) := by rfl

theorem witness_LoadByte : base.opnd8 (.imm 0x80) = .ok (0x80, base) := rfl

theorem witness_LoadWord : base.opnd16 (.imm 0x8000) = .ok (0x8000, base) ∧
    overlaps (src16Auto (.imm 0x8000)) (reg16Auto .x) = false ∧
    overlaps (src16Auto (.mem (.idx (.auto .y true 1)))) (reg16Auto .x) = false := ⟨rfl, rfl, rfl⟩

/-- The hypotheses of a store to the last byte of memory. -/
theorem witness_StoreByte : Memory.wf base.mem ∧ base.ea (.ext 0xFFFF) = .ok (0xFFFF, base) ∧ base.PlainAt .write 0xFFFF :=
  ⟨wf_base, rfl, allPlain_of _ rfl _ _⟩

theorem witness_StoreWord : Memory.wf base.mem ∧ base.ea (.ext 0xFFFF) = .ok (0xFFFF, base) ∧
    base.PlainFrom .write 0xFFFF 2 ∧ overlaps (memAuto (.ext 0xFFFF)) (reg16Auto .sp) = false :=
  ⟨wf_base, rfl, plainFrom_of _ _ _ _ rfl, rfl⟩

theorem witness_LoadAddress : base.ea (.idx (.auto .y true 3)) = .ok (0x2000, { base with y := 0x2004 }) ∧
    overlaps (idxAuto (.auto .y true 3)) (reg16Auto .x) = false := ⟨rfl, rfl⟩

theorem witness_MoveData :
    (Memory.wf base.mem ∧ base.opnd8 (.imm 0xAA) = .ok (0xAA, base) ∧
      base.ea (.idx (.auto .x true 0)) = .ok (0x1000, { base with x := 0x1001 }) ∧ base.PlainAt .write 0x1000 ∧
      pcTrailing (.movb (.imm 0xAA) (.idx (.auto .x true 0))) = false ∧
      autoOverlap (.movb (.imm 0xAA) (.idx (.auto .x true 0))) = false) ∧
    (base.opnd16 (.imm 0xBEEF) = .ok (0xBEEF, base) ∧ base.ea (.ext 0xFFFF) = .ok (0xFFFF, base) ∧
      base.PlainFrom .write 0xFFFF 2 ∧ pcTrailing (.movw (.imm 0xBEEF) (.ext 0xFFFF)) = false ∧
      autoOverlap (.movw (.imm 0xBEEF) (.ext 0xFFFF)) = false) :=
  ⟨⟨wf_base, rfl, rfl, allPlain_of _ rfl _ _, rfl, rfl⟩, rfl, rfl, plainFrom_of _ _ _ _ rfl, rfl, rfl⟩

/-- The stack pointer at 0 and at 1: the push wraps, the pushed word lies across the end of memory. -/
theorem witness_PushRegister : Memory.wf base.mem ∧
    State.PlainAt { base with sp := 0x0000 } .write (0x0000#16 - 1) ∧
    State.PlainFrom { base with sp := 0x0001 } .write (0x0001#16 - 2) 2 :=
  ⟨wf_base, allPlain_of _ rfl _ _, plainFrom_of _ _ _ _ rfl⟩

theorem witness_PullRegister : State.read8 { base with sp := 0xFFFF } 0xFFFF = .ok (0x00, { base with sp := 0xFFFF }) ∧
    State.read16 { base with sp := 0xFFFF } 0xFFFF = .ok (0x0000, { base with sp := 0xFFFF }) := ⟨rfl, rfl⟩

theorem witness_TransferRegister : regWide .a = regWide .b ∧ (regWide .x = true ∧ regWide .b = false) ∧
    (regWide .ccr = false ∧ regWide .y = true) := ⟨rfl, ⟨rfl, rfl⟩, rfl, rfl⟩

theorem witness_ExchangeRegister : regWide .a = regWide .b ∧ regWide .a = false ∧
    (regWide .a = false ∧ regWide .x = true ∧ exchangeOverlap .a .x = false) ∧
    (regWide .x = true ∧ regWide .a = false ∧ exchangeOverlap .x .a = false) ∧ exchangeOverlap .a .d = true :=
  ⟨rfl, rfl, ⟨rfl, rfl, rfl⟩, ⟨rfl, rfl, rfl⟩, rfl⟩

/-- The operands of the additions, subtractions and compares at the ends of their ranges. -/
theorem witness_AddInstructions : State.opnd8 { base with a := 0xFF, ccr := 0xD1 } (.imm 0xFF) =
      .ok (0xFF, { base with a := 0xFF, ccr := 0xD1 }) ∧
    State.opnd16 { base with a := 0xFF, b := 0xFF } (.imm 0xFFFF) = .ok (0xFFFF, { base with a := 0xFF, b := 0xFF }) :=
  ⟨rfl, rfl⟩

theorem witness_SubtractInstructions : State.opnd8 { base with ccr := 0xD1 } (.imm 0xFF) =
    .ok (0xFF, { base with ccr := 0xD1 }) ∧ base.opnd16 (.imm 0xFFFF) = .ok (0xFFFF, base) := ⟨rfl, rfl⟩

theorem witness_CompareInstructions : base.opnd8 (.imm 0xFF) = .ok (0xFF, base) ∧
    base.opnd16 (.imm 0xFFFF) = .ok (0xFFFF, base) ∧ overlaps (src16Auto (.imm 0xFFFF)) (reg16Auto .sp) = false :=
  ⟨rfl, rfl, rfl⟩

theorem witness_DecimalAdjust : (0x99#8).toNat / 16 < 10 ∧ (0x99#8).toNat % 16 < 10 ∧
    ∃ t u, exec (.adda (.imm 0x99)) { base with a := 0x99 } = .next t ∧ exec .daa t = .next u :=
  ⟨by decide, by decide, _, _, rfl, rfl⟩

theorem witness_IndexCount : ((0xFFFF#16).toNat : Int) = (((0#16).toNat : Int) - 1) % 65536 ∧
    (0#16).toNat = ((0xFFFF#16).toNat + 1) % 65536 := by decide

/-- The hypotheses about a read-modify-write of a plain byte, for INC, DEC, NEG, COM and the shifts. -/
theorem witness_OneOperand : Memory.wf base.mem ∧
    base.ea (.idx (.auto .x true 0)) = .ok (0x1000, { base with x := 0x1001 }) ∧
    base.PlainAt .read 0x1000 ∧ base.PlainAt .write 0x1000 :=
  ⟨wf_base, rfl, allPlain_of _ rfl _ _, allPlain_of _ rfl _ _⟩

theorem witness_IncrementDecrement : Memory.wf base.mem ∧ base.ea (.ext 0xFFFF) = .ok (0xFFFF, base) ∧
    base.PlainAt .read 0xFFFF ∧ base.PlainAt .write 0xFFFF := ⟨wf_base, rfl, allPlain_of _ rfl _ _, allPlain_of _ rfl _ _⟩

theorem witness_NegateComplementClearTest : Memory.wf base.mem ∧ base.ea (.ext 0x0000) = .ok (0x0000, base) ∧
    base.PlainAt .read 0x0000 ∧ base.PlainAt .write 0x0000 := ⟨wf_base, rfl, allPlain_of _ rfl _ _, allPlain_of _ rfl _ _⟩

/-- A divisor of 1, a divisor of 0, the largest fraction, and the numerator at the denominator. -/
theorem witness_MultiplyDivide : State.x { base with x := 0x0001 } ≠ 0 ∧ State.x { base with x := 0x0000 } = 0 ∧
    (State.d { base with a := 0xFF, b := 0xFE, x := 0xFFFF }).toNat < (0xFFFF#16).toNat ∧
    (0x0005#16).toNat ≤ (State.d { base with b := 0x05, x := 0x0005 }).toNat := by decide

theorem witness_LogicInstructions : base.opnd8 (.imm 0xFF) = .ok (0xFF, base) := rfl

theorem witness_LoadCcr : State.read8 { base with sp := 0xFFFF } 0xFFFF = .ok (0x00, { base with sp := 0xFFFF }) ∧
    State.PlainFrom { base with sp := 0xFFFC } .read 0xFFFC 9 ∧ regWide .b = false :=
  ⟨rfl, plainFrom_of _ _ _ _ rfl, rfl⟩

/-- `base` with $FF at $0020. -/
def marked : State := pokes base [(0x0020, 0xFF)]

/-- Of $FF BCLR leaves $F0 under the mask $0F; BSET leaves $FF under any mask. -/
theorem witness_BitManipulation : Memory.wf marked.mem ∧ memOnPc (.dir 0x20) = false ∧
    marked.ea (.dir 0x20) = .ok (0x0020, marked) ∧ marked.PlainAt .read 0x0020 ∧ marked.PlainAt .write 0x0020 ∧
    (∀ k, k < 8 → (0xF0 : Byte).getLsbD k = (!(0x0F : Byte).getLsbD k && (marked.byteAt 0x0020).getLsbD k)) ∧
    (∀ k, k < 8 → (0xFF : Byte).getLsbD k = ((0x0F : Byte).getLsbD k || (marked.byteAt 0x0020).getLsbD k)) :=
  ⟨by decide +kernel, rfl, rfl, allPlain_of _ rfl _ _, allPlain_of _ rfl _ _, by decide +kernel, by decide +kernel⟩

theorem witness_ShiftInstructions : (Memory.wf base.mem ∧ base.ea (.ext 0xFFFF) = .ok (0xFFFF, base) ∧
    base.PlainAt .read 0xFFFF ∧ base.PlainAt .write 0xFFFF) ∧
    (0xFFFE#16).toNat = 2 * (State.d { base with a := 0xFF, b := 0xFF }).toNat % 65536 ∧
    (0x7FFF#16).toNat = (State.d { base with a := 0xFF, b := 0xFF }).toNat / 2 :=
  ⟨⟨wf_base, rfl, allPlain_of _ rfl _ _, allPlain_of _ rfl _ _⟩, by decide, by decide⟩

/-- Mask 0 and mask $FF, which BRCLR and BRSET both decide for a byte of zeros. -/
theorem witness_BitBranches : memOnPc (.ext 0xFFFF) = false ∧ base.ea (.ext 0xFFFF) = .ok (0xFFFF, base) ∧
    base.read8 0xFFFF = .ok (0x00, base) ∧
    (∀ k < 8, (0x00 : Byte).getLsbD k = true → (0x00 : Byte).getLsbD k = true) ∧
    ¬(∀ k < 8, (0xFF : Byte).getLsbD k = true → (0x00 : Byte).getLsbD k = true) :=
  ⟨rfl, rfl, rfl, by decide, by decide⟩

theorem witness_JumpsAndCalls : Memory.wf base.mem ∧ base.ea (.idx (.ofs5 .sp 0)) = .ok (0x0C00, base) ∧
    autoOverlap (.jsr (.idx (.ofs5 .sp 0))) = false ∧ State.PlainFrom { base with sp := 0x0001 } .write (0x0001#16 - 2) 2 ∧
    base.PlainFrom .write (base.sp - 2) 2 ∧
    State.read16 { base with sp := 0xFFFF } 0xFFFF = .ok (0x0000, { base with sp := 0xFFFF }) :=
  ⟨wf_base, rfl, rfl, plainFrom_of _ _ _ _ rfl, plainFrom_of _ _ _ _ rfl, rfl⟩

/-- A counter that goes down from 0, one that goes up from its top, one that is tested at 0. -/
theorem witness_LoopPrimitives : (255 : Int) = ((base.cntrVal .a : Int) + -1) % cntrModulus .a ∧
    (0 : Int) = ((State.cntrVal { base with x := 0xFFFF } .x : Int) + 1) % cntrModulus .x ∧
    (0 : Int) = ((base.cntrVal .d : Int) + 0) % cntrModulus .d := by decide

theorem witness_NopDoesNothing : (at_ [0xA7]).Quiet ∧ (at_ [0xA7]).CodeAtPc [0xA7] :=
  ⟨quiet_at _, codeAtPc_of _ _ rfl rfl (by decide +kernel)⟩

end Sys2Proof.Tests
end

section
/-! PROOFS. The stack: a word pushed and pulled again (R20, R34), and PSHX followed by PULY (R214, R221). -/

namespace Sys2Proof.Machine

/-! ## Two bytes of plain memory -/

/-- The pair of bytes that a word access touches. -/
theorem PlainAt_pair_of_PlainFrom (s : State) (k : Access) (a : Word) (h : s.PlainFrom k a 2) :
    s.PlainAt k a ∧ s.PlainAt k (a + 1) :=
  ⟨PlainAt_of_PlainFrom s k a a 2 0 h (by decide) (by simp), PlainAt_of_PlainFrom s k a (a + 1) 2 1 h (by decide) rfl⟩

/-- An address outside the two bytes from `lo` upward is neither of them, at the wrap of the address space too. -/
theorem ne_of_two_le_sub (lo a : Word) (h : 2 ≤ (a - lo).toNat) : a ≠ lo ∧ a ≠ lo + 1 := by
  constructor <;> rintro rfl <;> bv_omega

/-! ## A word on the stack -/

/-- On any map a pushed word leaves every byte but the two at the new SP as it was. -/
theorem push16_sameMemBut (s : State) (v : Word) (t : State) (h : s.push16 v = .ok t) :
    s.SameMemBut t (s.sp - 2) 2 := by
  obtain ⟨-, hmem, -⟩ := push16_frame s v t h
  intro a ha
  obtain ⟨hlo, hhi⟩ := ne_of_two_le_sub _ _ ha
  exact hmem a hlo hhi

/-- A word pushed onto plain memory lies at the new SP, high byte first. -/
theorem wordAt_sp_of_push16 (s : State) (v : Word) (t : State) (hw : Memory.wf s.mem)
    (hwr : s.PlainFrom .write (s.sp - 2) 2) (h : s.push16 v = .ok t) : t.wordAt t.sp = v := by
  obtain ⟨hlo, hhi⟩ := PlainAt_pair_of_PlainFrom s _ _ hwr
  obtain ⟨t', hpush, -, -, hbyte⟩ := push16_wrote s v hw hlo hhi
  obtain rfl : t = t' := Except.ok.inj (h.symm.trans hpush)
  have hsp : t.sp = s.sp - 2 := by rw [(push16_frame s v t h).1]
  simp [State.wordAt, hsp, hbyte]

/-- What was pushed last is pulled first: the word comes back, SP is what it was, and the pull changes nothing else. -/
theorem pull16_of_push16 (s : State) (v : Word) (t : State) (hw : Memory.wf s.mem)
    (hwr : s.PlainFrom .write (s.sp - 2) 2) (hrd : s.PlainFrom .read (s.sp - 2) 2) (h : s.push16 v = .ok t) :
    t.pull16 = .ok (v, { t with sp := s.sp }) := by
  obtain ⟨ht, -, -⟩ := push16_frame s v t h
  have hsp : t.sp = s.sp - 2 := by rw [ht]
  have hcfg : t.cfg = s.cfg := by rw [ht]
  obtain ⟨hlo, hhi⟩ := PlainAt_pair_of_PlainFrom s _ _ hrd
  rw [← hsp, ← PlainAt_congr s t _ _ hcfg] at hlo hhi
  have hback : t.sp + 2 = s.sp := by rw [hsp, BitVec.sub_add_cancel]
  rw [pull16_plain t hlo hhi, wordAt_sp_of_push16 s v t hw hwr h, hback]

/-! ## PSHX and PULY -/

/-- A push of 16 bits completes exactly if `Push16` does (R209). -/
theorem pushWord_next_iff (v : Word) (s t : State) : pushWord v s = .next t ↔ s.push16 v = .ok t :=
  outcome_next_iff (s.push16 v) t

/-- A pull into D, X or Y completes exactly if the pull does, and the register takes the pulled word (R209). -/
theorem pullInto16_next_iff (r : Reg16) (s u : State) :
    pullInto16 r s = .next u ↔ ∃ v t, s.pull16 = .ok (v, t) ∧ u = t.set16 r v := by
  rw [pullInto16, outcome_next_iff, bind_ok_iff]
  simp only [Prod.exists, Except.ok.injEq, @eq_comm _ u]

/-- PSHX pushes X (R214). -/
theorem exec_pshx (s : State) : exec .pshx s = pushWord s.x s := rfl

/-- PULY pulls into Y (R221). -/
theorem exec_puly (s : State) : exec .puly s = pullInto16 .y s := rfl

/-- Settles O11: PULY pulls the word that PSHX pushed, and only the push writes memory. -/
theorem stackRoundTrip : Obligations.StackRoundTrip := by
  intro s t u hw hwr hrd hpsh hpul
  have hpush : s.push16 s.x = .ok t := (pushWord_next_iff s.x s t).1 (exec_pshx s ▸ hpsh)
  obtain ⟨v, t', hpull, rfl⟩ := (pullInto16_next_iff .y t u).1 (exec_puly t ▸ hpul)
  obtain ⟨rfl, rfl⟩ := Prod.mk.inj (Except.ok.inj (hpull.symm.trans (pull16_of_push16 s s.x t hw hwr hrd hpush)))
  obtain ⟨ht, -, -⟩ := push16_frame s s.x t hpush
  have hx : t.x = s.x := by rw [ht]
  have hsp : t.sp = s.sp - 2 := by rw [ht]
  exact ⟨rfl, hx, rfl, hsp, push16_sameMemBut s s.x t hpush⟩

end Sys2Proof.Machine
end

section
/-! PROOFS. What every instruction leaves of X, H and the stopped state: the rules about the whole machine (R43 to R45, R47,
R50). Each shared operation is shown once to be steady, and the instructions are read off from that. -/

namespace Sys2Proof.Machine

/-! ## Steady changes of the state -/

/-- From `s` to `t` the flags H and X and the stopped state stay as they are. -/
structure State.Steady (s t : State) : Prop where
  h : t.flag .h = s.flag .h
  x : t.flag .x = s.flag .x
  stopped : t.stopped = s.stopped

/-- From `s` to `t` X is not newly set, and the stopped state stays as it is. -/
structure State.NoNewX (s t : State) : Prop where
  x : t.flag .x = true → s.flag .x = true
  stopped : t.stopped = s.stopped

theorem Steady_refl (s : State) : s.Steady s := ⟨rfl, rfl, rfl⟩

theorem Steady_trans {s t u : State} (h : s.Steady t) (h' : t.Steady u) : s.Steady u :=
  ⟨h'.h.trans h.h, h'.x.trans h.x, h'.stopped.trans h.stopped⟩

theorem NoNewX_of_Steady {s t : State} (h : s.Steady t) : s.NoNewX t := ⟨fun hx => h.x ▸ hx, h.stopped⟩

theorem NoNewX_trans {s t u : State} (h : s.NoNewX t) (h' : t.NoNewX u) : s.NoNewX u :=
  ⟨fun hx => h.x (h'.x hx), h'.stopped.trans h.stopped⟩

/-- A change that touches neither CCR nor the stopped state is steady. -/
theorem Steady_of_ccr {s t : State} (hc : t.ccr = s.ccr) (hs : t.stopped = s.stopped) : s.Steady t :=
  ⟨by rw [flag_def, flag_def, hc], by rw [flag_def, flag_def, hc], hs⟩

/-! ## The updates of the state -/

theorem Steady_putFlag (s : State) (f : Flag) (v : Bool) (hh : f ≠ .h) (hx : f ≠ .x) : s.Steady (s.putFlag f v) :=
  ⟨by simp [hh.symm], by simp [hx.symm], rfl⟩

theorem Steady_putNZV (s : State) (n z v : Bool) : s.Steady (s.putNZV n z v) := ⟨by simp, by simp, by simp⟩

theorem Steady_putNZVC (s : State) (n z v c : Bool) : s.Steady (s.putNZVC n z v c) := ⟨by simp, by simp, by simp⟩

theorem Steady_logicFlags {w : Nat} (s : State) (r : BitVec w) : s.Steady (s.logicFlags r) := Steady_putNZV _ _ _ _

theorem Steady_aluFlags {w : Nat} (s : State) (q : Alu w) : s.Steady (s.aluFlags q) := Steady_putNZVC _ _ _ _ _

theorem Steady_set8 (s : State) (r : Reg8) (v : Byte) : s.Steady (s.set8 r v) :=
  Steady_of_ccr (set8_ccr s r v) (set8_stopped s r v)

theorem Steady_set16 (s : State) (r : Reg16) (v : Word) : s.Steady (s.set16 r v) :=
  Steady_of_ccr (set16_ccr s r v) (set16_stopped s r v)

theorem Steady_branch (s : State) (c : Bool) (t : Word) : s.Steady (s.branch c t) :=
  Steady_of_ccr (branch_ccr s c t) (branch_stopped s c t)

theorem Steady_jump (s : State) (t : Word) : s.Steady (s.jump t) := Steady_of_ccr rfl rfl

theorem Steady_drawWord (s : State) : s.Steady s.drawWord.2 := Steady_of_ccr rfl rfl

theorem Steady_drawByte (s : State) : s.Steady s.drawByte.2 := Steady_of_ccr rfl rfl

theorem Steady_drawBit (s : State) : s.Steady s.drawBit.2 := Steady_of_ccr rfl rfl

theorem Steady_cntrAdd (s : State) (c : Cntr) (k : Int) : s.Steady (s.cntrAdd c k) := by
  cases c <;> exact Steady_of_ccr rfl rfl

theorem Steady_count16 (s : State) (r : Reg16) (v : Word) : s.Steady (s.count16 r v) :=
  Steady_trans (Steady_set16 s r v) (Steady_putFlag _ .z _ nofun nofun)

theorem Steady_subInto (s : State) (r : Reg8) (m : Byte) (bin : Bool) : s.Steady (s.subInto r m bin) :=
  Steady_trans (Steady_set8 s r _) (Steady_aluFlags _ _)

theorem Steady_shiftD (s : State) (q : Alu 16) : s.Steady (s.shiftD q) :=
  Steady_trans (Steady_set16 s .d q.r) (Steady_aluFlags _ q)

/-- An 8-bit addition writes H; X and the stopped state stay. -/
theorem NoNewX_addInto (s : State) (r : Reg8) (m : Byte) (cin : Bool) : s.NoNewX (s.addInto r m cin) :=
  ⟨by simp [State.addInto], by simp [State.addInto]⟩

/-- `LoadCCR` can clear X and not set it (R47). -/
theorem NoNewX_loadCcr (s : State) (v : Byte) : s.NoNewX (s.loadCcr v) :=
  ⟨by simp only [flag_loadCcr, if_true, Bool.and_eq_true]; exact And.left, rfl⟩

theorem NoNewX_andCcr (s : State) (ii : Byte) : s.NoNewX (s.andCcr ii) :=
  ⟨by simp only [flag_andCcr, Bool.and_eq_true]; exact And.left, rfl⟩

/-- `ORCC` does not write X (R313). -/
theorem NoNewX_orCcr (s : State) (ii : Byte) : s.NoNewX (s.orCcr ii) := ⟨by simp, rfl⟩

theorem Steady_andCcr (s : State) (ii : Byte) (hh : ccrFlag ii .h = true) (hx : ccrFlag ii .x = true) :
    s.Steady (s.andCcr ii) := ⟨by simp [hh], by simp [hx], rfl⟩

theorem Steady_orCcr (s : State) (ii : Byte) (hh : ccrFlag ii .h = false) : s.Steady (s.orCcr ii) :=
  ⟨by simp [hh], by simp, rfl⟩

/-! ## Operations that may stop -/

/-- Whatever state the operation answers, the change from `s` to it is steady. -/
def State.StaysSteady (s : State) (r : Res State) : Prop := ∀ t, r = .ok t → s.Steady t

theorem Steady_of_outcome {s t : State} {r : Res State} (hr : s.StaysSteady r) (h : outcome r = .next t) : s.Steady t :=
  hr t ((outcome_next_iff r t).1 h)

theorem StaysSteady_ok {s t : State} (h : s.Steady t) : s.StaysSteady (.ok t) := fun _ e => Except.ok.inj e ▸ h

theorem StaysSteady_bind {α : Type} {s : State} {x : Res (α × State)} {f : α × State → Res State}
    (hx : ∀ v u, x = .ok (v, u) → s.Steady u) (hf : ∀ (v : α) (u : State), u.StaysSteady (f (v, u))) :
    s.StaysSteady (x >>= f) := by
  intro t h
  obtain ⟨⟨v, u⟩, hu, ht⟩ := (bind_ok_iff x f t).1 h
  exact Steady_trans (hx v u hu) (hf v u t ht)

theorem StaysSteady_then {s : State} {x : Res State} {f : State → Res State}
    (hx : s.StaysSteady x) (hf : ∀ u : State, u.StaysSteady (f u)) : s.StaysSteady (x >>= f) := by
  intro t h
  obtain ⟨u, hu, ht⟩ := (bind_ok_iff x f t).1 h
  exact Steady_trans (hx u hu) (hf u t ht)

theorem StaysSteady_refuseIf {s : State} {bad : Bool} {r : Refusal} {go : Res State} (h : s.StaysSteady go) :
    s.StaysSteady (refuseIf bad r go) := fun t e => h t ((refuseIf_ok_iff bad r go t).1 e).2

theorem Steady_of_Operand {s t : State} {l : List RegName} (h : s.Operand t l) : s.Steady t :=
  Steady_of_ccr (Operand_ccr h) (Operand_stopped h)

theorem ea_steady {s : State} {m : Mem} (a : Word) (u : State) (h : s.ea m = .ok (a, u)) : s.Steady u :=
  Steady_of_Operand (ea_frame s m a u h)

theorem idxAddr_steady {s : State} {i : Idx} (a : Word) (u : State) (h : s.idxAddr i = .ok (a, u)) : s.Steady u :=
  Steady_of_Operand (idxAddr_frame s i a u h)

theorem opnd8_steady {s : State} {op : Src8} (v : Byte) (u : State) (h : s.opnd8 op = .ok (v, u)) : s.Steady u :=
  Steady_of_Operand (opnd8_frame s op v u h)

theorem opnd16_steady {s : State} {op : Src16} (v : Word) (u : State) (h : s.opnd16 op = .ok (v, u)) : s.Steady u :=
  Steady_of_Operand (opnd16_frame s op v u h)

theorem read8_steady {s : State} {a : Word} (v : Byte) (u : State) (h : s.read8 a = .ok (v, u)) : s.Steady u :=
  Steady_of_Operand (Operand_of_draws s u [] (read8_frame s a v u h))

theorem write8_steady (s : State) (a : Word) (v : Byte) : s.StaysSteady (s.write8 a v) := by
  intro t h
  obtain ⟨e, -, -⟩ := write8_frame s a v t h
  exact e ▸ Steady_of_ccr rfl rfl

theorem write16_steady (s : State) (a v : Word) : s.StaysSteady (s.write16 a v) := by
  intro t h
  obtain ⟨e, -, -⟩ := write16_frame s a v t h
  exact e ▸ Steady_of_ccr rfl rfl

theorem push8_steady (s : State) (v : Byte) : s.StaysSteady (s.push8 v) := by
  intro t h
  obtain ⟨e, -, -⟩ := push8_frame s v t h
  exact e ▸ Steady_of_ccr rfl rfl

theorem push16_steady (s : State) (v : Word) : s.StaysSteady (s.push16 v) := by
  intro t h
  obtain ⟨e, -, -⟩ := push16_frame s v t h
  exact e ▸ Steady_of_ccr rfl rfl

theorem pull8_steady {s : State} (v : Byte) (u : State) (h : s.pull8 = .ok (v, u)) : s.Steady u :=
  pull8_frame s v u h ▸ Steady_of_ccr rfl rfl

theorem pull16_steady {s : State} (v : Word) (u : State) (h : s.pull16 = .ok (v, u)) : s.Steady u :=
  pull16_frame s v u h ▸ Steady_of_ccr rfl rfl

theorem call_steady (s : State) (t : Word) : s.StaysSteady (s.call t) :=
  StaysSteady_then (push16_steady s s.pc) fun u => StaysSteady_ok (Steady_jump u t)

/-! ## Shared meanings: loads, stores, moves -/

section
variable {s t : State}

theorem load8_steady {r : Reg8} {op : Src8} (h : load8 r op s = .next t) : s.Steady t :=
  Steady_of_outcome (StaysSteady_bind opnd8_steady fun v u =>
    StaysSteady_ok (Steady_trans (Steady_set8 u r v) (Steady_logicFlags _ v))) h

theorem load16_steady {r : Reg16} {op : Src16} (h : load16 r op s = .next t) : s.Steady t :=
  Steady_of_outcome (StaysSteady_refuseIf (StaysSteady_bind opnd16_steady fun v u =>
    StaysSteady_ok (Steady_trans (Steady_set16 u r v) (Steady_logicFlags _ v)))) h

theorem store8_steady {r : Reg8} {m : Mem} (h : store8 r m s = .next t) : s.Steady t :=
  Steady_of_outcome (StaysSteady_bind ea_steady fun a u =>
    StaysSteady_then (write8_steady u a _) fun w => StaysSteady_ok (Steady_logicFlags w _)) h

theorem store16_steady {r : Reg16} {m : Mem} (h : store16 r m s = .next t) : s.Steady t :=
  Steady_of_outcome (StaysSteady_refuseIf (StaysSteady_bind ea_steady fun a u =>
    StaysSteady_then (write16_steady u a _) fun w => StaysSteady_ok (Steady_logicFlags w _))) h

theorem lea_steady {r : Reg16} {i : Idx} (h : lea r i s = .next t) : s.Steady t :=
  Steady_of_outcome (StaysSteady_refuseIf (StaysSteady_bind idxAddr_steady fun a u =>
    StaysSteady_ok (Steady_set16 u r a))) h

theorem movb_steady {src : Src8} {dst : Mem} (h : execMovb src dst s = .next t) : s.Steady t :=
  Steady_of_outcome (StaysSteady_refuseIf (StaysSteady_refuseIf (StaysSteady_bind opnd8_steady fun v _ =>
    StaysSteady_bind ea_steady fun a w => write8_steady w a v))) h

theorem movw_steady {src : Src16} {dst : Mem} (h : execMovw src dst s = .next t) : s.Steady t :=
  Steady_of_outcome (StaysSteady_refuseIf (StaysSteady_refuseIf (StaysSteady_bind opnd16_steady fun v _ =>
    StaysSteady_bind ea_steady fun a w => write16_steady w a v))) h

theorem pushByte_steady {v : Byte} (h : pushByte v s = .next t) : s.Steady t := Steady_of_outcome (push8_steady s v) h

theorem pushWord_steady {v : Word} (h : pushWord v s = .next t) : s.Steady t := Steady_of_outcome (push16_steady s v) h

theorem pullInto8_steady {r : Reg8} (h : pullInto8 r s = .next t) : s.Steady t :=
  Steady_of_outcome (StaysSteady_bind pull8_steady fun v u => StaysSteady_ok (Steady_set8 u r v)) h

theorem pullInto16_steady {r : Reg16} (h : pullInto16 r s = .next t) : s.Steady t :=
  Steady_of_outcome (StaysSteady_bind pull16_steady fun v u => StaysSteady_ok (Steady_set16 u r v)) h

/-! ## Shared meanings: arithmetic, logic, shifts -/

theorem subMem8_steady {r : Reg8} {withC : Bool} {op : Src8} (h : subMem8 r withC op s = .next t) : s.Steady t :=
  Steady_of_outcome (StaysSteady_bind opnd8_steady fun m u => StaysSteady_ok (Steady_subInto u r m _)) h

theorem cmpMem8_steady {r : Reg8} {op : Src8} (h : cmpMem8 r op s = .next t) : s.Steady t :=
  Steady_of_outcome (StaysSteady_bind opnd8_steady fun _ u => StaysSteady_ok (Steady_aluFlags u _)) h

theorem cmpMem16_steady {r : Reg16} {op : Src16} (h : cmpMem16 r op s = .next t) : s.Steady t :=
  Steady_of_outcome (StaysSteady_refuseIf (StaysSteady_bind opnd16_steady fun _ u =>
    StaysSteady_ok (Steady_aluFlags u _))) h

theorem addd_steady {op : Src16} (h : execAddd op s = .next t) : s.Steady t :=
  Steady_of_outcome (StaysSteady_bind opnd16_steady fun m u => StaysSteady_ok (Steady_shiftD u (add16 u.d m))) h

theorem subd_steady {op : Src16} (h : execSubd op s = .next t) : s.Steady t :=
  Steady_of_outcome (StaysSteady_bind opnd16_steady fun m u => StaysSteady_ok (Steady_shiftD u (sub16 u.d m))) h

theorem logicMem8_steady {f : Byte → Byte → Byte} {r : Reg8} {op : Src8} (h : logicMem8 f r op s = .next t) :
    s.Steady t :=
  Steady_of_outcome (StaysSteady_bind opnd8_steady fun _ u =>
    StaysSteady_ok (Steady_trans (Steady_set8 u r _) (Steady_logicFlags _ _))) h

theorem bitTest8_steady {r : Reg8} {op : Src8} (h : bitTest8 r op s = .next t) : s.Steady t :=
  Steady_of_outcome (StaysSteady_bind opnd8_steady fun _ u => StaysSteady_ok (Steady_logicFlags u _)) h

/-- A one-operand operation (R245) that writes no flag but N, Z, V and C. -/
def SteadyOp (f : State → Byte → Byte × State) : Prop := ∀ (s : State) (v : Byte), s.Steady (f s v).2

theorem SteadyOp_dec : SteadyOp decOp := fun s _ => Steady_putNZV s _ _ _
theorem SteadyOp_inc : SteadyOp incOp := fun s _ => Steady_putNZV s _ _ _
theorem SteadyOp_neg : SteadyOp negOp := fun s _ => Steady_putNZVC s _ _ _ _
theorem SteadyOp_com : SteadyOp comOp := fun s _ => Steady_putNZVC s _ _ _ _
theorem SteadyOp_asl : SteadyOp aslOp := fun s _ => Steady_aluFlags s _
theorem SteadyOp_asr : SteadyOp asrOp := fun s _ => Steady_aluFlags s _
theorem SteadyOp_lsr : SteadyOp lsrOp := fun s _ => Steady_aluFlags s _
theorem SteadyOp_rol : SteadyOp rolOp := fun s _ => Steady_aluFlags s _
theorem SteadyOp_ror : SteadyOp rorOp := fun s _ => Steady_aluFlags s _
theorem SteadyOp_bit (g : Byte → Byte) : SteadyOp (bitOp g) := fun s _ => Steady_logicFlags s _

theorem StaysSteady_modify8 {f : State → Byte → Byte × State} (hf : SteadyOp f) (m : Mem) (s : State) :
    s.StaysSteady (modify8 f m s) :=
  StaysSteady_bind ea_steady fun a _ => StaysSteady_bind read8_steady fun v w =>
    fun t ht => Steady_trans (hf w v) (write8_steady (f w v).2 a (f w v).1 t ht)

theorem modify8_steady {f : State → Byte → Byte × State} {m : Mem} (hf : SteadyOp f)
    (h : outcome (modify8 f m s) = .next t) : s.Steady t := Steady_of_outcome (StaysSteady_modify8 hf m s) h

theorem modifyBits_steady {g : Byte → Byte} {m : Mem} (h : modifyBits g m s = .next t) : s.Steady t :=
  Steady_of_outcome (StaysSteady_refuseIf (StaysSteady_modify8 (SteadyOp_bit g) m s)) h

theorem Steady_modifyAcc {f : State → Byte → Byte × State} (hf : SteadyOp f) (r : Reg8) (s : State) :
    s.Steady (modifyAcc f r s) := Steady_trans (hf s (s.get8 r)) (Steady_set8 _ r _)

theorem clr_steady {m : Mem} (h : execClr m s = .next t) : s.Steady t :=
  Steady_of_outcome (StaysSteady_bind ea_steady fun a u =>
    StaysSteady_then (write8_steady u a 0x00) fun w => StaysSteady_ok (Steady_putNZVC w _ _ _ _)) h

theorem tst_steady {m : Mem} (h : execTst m s = .next t) : s.Steady t :=
  Steady_of_outcome (StaysSteady_bind ea_steady fun _ _ =>
    StaysSteady_bind read8_steady fun _ w => StaysSteady_ok (Steady_putNZVC w _ _ _ _)) h

/-- The byte that DAA leaves in A (R265). -/
def State.daaByte (s : State) : Byte := s.a + (daaAdjust s.a (s.flag .h) (s.flag .c)).1

/-- The carry that DAA leaves in C (R265). -/
def State.daaCarry (s : State) : Bool := (daaAdjust s.a (s.flag .h) (s.flag .c)).2

/-- DAA as a write of A and of N, Z, V and C, with V a free value (R265). -/
theorem execDaa_eq (s : State) : execDaa s =
    .next ((s.drawBit.2.set8 .a s.daaByte).putNZVC s.daaByte.msb (s.daaByte == 0) s.drawBit.1 s.daaCarry) := rfl

theorem daa_steady (h : execDaa s = .next t) : s.Steady t := by
  obtain rfl := Host.Outcome.next.inj ((execDaa_eq s).symm.trans h)
  exact Steady_trans (Steady_drawBit s) (Steady_trans (Steady_set8 _ .a _) (Steady_putNZVC _ _ _ _ _))

theorem mul_steady (h : execMul s = .next t) : s.Steady t := by
  cases h
  exact Steady_trans (Steady_set16 s .d _) (Steady_putFlag _ .c _ nofun nofun)

/-- Writing the quotient, D and the flags Z, V and C, as a division does. -/
theorem Steady_division (u : State) (x d : Word) (z v c : Bool) :
    u.Steady ((((({ u with x := x }).setD d).putFlag .z z).putFlag .v v).putFlag .c c) :=
  Steady_trans (Steady_set16 u .x x) (Steady_trans (Steady_set16 _ .d d) (Steady_trans (Steady_putFlag _ .z z nofun nofun)
    (Steady_trans (Steady_putFlag _ .v v nofun nofun) (Steady_putFlag _ .c c nofun nofun))))

theorem idiv_steady (h : execIdiv s = .next t) : s.Steady t := by
  unfold execIdiv at h
  split at h
  · cases h
    exact Steady_trans (Steady_drawWord s) (Steady_division s.drawWord.2 _ _ _ _ _)
  · cases h
    exact Steady_division s _ _ _ _ _

theorem fdiv_steady (h : execFdiv s = .next t) : s.Steady t := by
  unfold execFdiv at h
  split at h
  · cases h
    exact Steady_trans (Steady_drawWord s) (Steady_division s.drawWord.2 _ _ _ _ _)
  · cases h
    exact Steady_division s _ _ _ _ _

/-! ## Shared meanings: control flow -/

theorem branchIf_steady {c : Bool} {rr : Byte} (h : branchIf c rr s = .next t) : s.Steady t := by
  cases h
  exact Steady_branch s c _

theorem branchOnBits_steady {test : Byte → Bool} {m : Mem} {rr : Byte} (h : branchOnBits test m rr s = .next t) :
    s.Steady t :=
  Steady_of_outcome (StaysSteady_refuseIf (StaysSteady_bind ea_steady fun _ _ =>
    StaysSteady_bind read8_steady fun _ w => StaysSteady_ok (Steady_branch w _ _))) h

theorem loopOp_steady {k : Int} {z : Bool} {c : Cntr} {rel : BitVec 9} (h : loopOp k z c rel s = .next t) :
    s.Steady t := by
  cases h
  exact Steady_trans (Steady_cntrAdd s c k) (Steady_branch _ _ _)

theorem jmp_steady {m : Mem} (h : execJmp m s = .next t) : s.Steady t :=
  Steady_of_outcome (StaysSteady_bind ea_steady fun a u => StaysSteady_ok (Steady_jump u a)) h

theorem jsr_steady {m : Mem} (h : execJsr m s = .next t) : s.Steady t :=
  Steady_of_outcome (StaysSteady_refuseIf (StaysSteady_bind ea_steady fun a u => call_steady u a)) h

theorem bsr_steady {rr : Byte} (h : execBsr rr s = .next t) : s.Steady t := Steady_of_outcome (call_steady s _) h

theorem rts_steady (h : execRts s = .next t) : s.Steady t :=
  Steady_of_outcome (StaysSteady_bind pull16_steady fun a u => StaysSteady_ok (Steady_jump u a)) h

end

/-! ## Transfers and exchanges -/

theorem Steady_setReg (s : State) (r : Reg) (v : Word) (hr : r ≠ .ccr) : s.Steady (s.setReg r v) := by
  cases r with
  | ccr => exact absurd rfl hr
  | a | b | d | x | y | sp => exact Steady_of_ccr rfl rfl

theorem NoNewX_setReg (s : State) (r : Reg) (v : Word) : s.NoNewX (s.setReg r v) := by
  by_cases hr : r = .ccr
  · exact hr ▸ NoNewX_loadCcr s (loByte v)
  · exact NoNewX_of_Steady (Steady_setReg s r v hr)

theorem transfer_eq_setReg (s : State) (r1 r2 : Reg) : ∃ v, s.transfer r1 r2 = s.setReg r2 v := by
  unfold State.transfer
  split <;> exact ⟨_, rfl⟩

/-- What an exchange is made of: a free D where the two registers overlap, else two register writes, perhaps after a draw. -/
theorem exchange_cases (s : State) (r1 r2 : Reg) :
    (∃ v, s.exchange r1 r2 = s.drawWord.2.setD v) ∨
      ∃ u v w, (u = s ∨ u = s.drawByte.2) ∧
        (s.exchange r1 r2 = (u.setReg r2 v).setReg r1 w ∨ s.exchange r1 r2 = (u.setReg r1 w).setReg r2 v) := by
  unfold State.exchange
  split_ifs
  · exact .inl ⟨_, rfl⟩
  · exact .inr ⟨_, _, _, .inr rfl, .inl rfl⟩
  · exact .inr ⟨_, _, _, .inr rfl, .inr rfl⟩
  · exact .inr ⟨_, _, _, .inl rfl, .inr rfl⟩

theorem Steady_drawByte_or {s u : State} (h : u = s ∨ u = s.drawByte.2) : s.Steady u := by
  rcases h with rfl | rfl
  · exact Steady_refl u
  · exact Steady_drawByte s

theorem Steady_transfer (s : State) (r1 r2 : Reg) (hr : r2 ≠ .ccr) : s.Steady (s.transfer r1 r2) := by
  obtain ⟨v, e⟩ := transfer_eq_setReg s r1 r2
  exact e ▸ Steady_setReg s r2 v hr

theorem NoNewX_transfer (s : State) (r1 r2 : Reg) : s.NoNewX (s.transfer r1 r2) := by
  obtain ⟨v, e⟩ := transfer_eq_setReg s r1 r2
  exact e ▸ NoNewX_setReg s r2 v

theorem Steady_exchange (s : State) (r1 r2 : Reg) (h1 : r1 ≠ .ccr) (h2 : r2 ≠ .ccr) : s.Steady (s.exchange r1 r2) := by
  obtain ⟨v, e⟩ | ⟨u, v, w, hu, e | e⟩ := exchange_cases s r1 r2
  · exact e ▸ Steady_of_ccr rfl rfl
  · exact e ▸ Steady_trans (Steady_drawByte_or hu) (Steady_trans (Steady_setReg u r2 v h2) (Steady_setReg _ r1 w h1))
  · exact e ▸ Steady_trans (Steady_drawByte_or hu) (Steady_trans (Steady_setReg u r1 w h1) (Steady_setReg _ r2 v h2))

theorem NoNewX_exchange (s : State) (r1 r2 : Reg) : s.NoNewX (s.exchange r1 r2) := by
  obtain ⟨v, e⟩ | ⟨u, v, w, hu, e | e⟩ := exchange_cases s r1 r2
  · exact e ▸ NoNewX_of_Steady (Steady_of_ccr rfl rfl)
  · exact e ▸ NoNewX_trans (NoNewX_of_Steady (Steady_drawByte_or hu))
      (NoNewX_trans (NoNewX_setReg u r2 v) (NoNewX_setReg _ r1 w))
  · exact e ▸ NoNewX_trans (NoNewX_of_Steady (Steady_drawByte_or hu))
      (NoNewX_trans (NoNewX_setReg u r1 w) (NoNewX_setReg _ r2 v))

/-! ## The instructions that write the whole CCR, and those that stop or start the CPU -/

theorem addMem8_noNewX {r : Reg8} {withC : Bool} {op : Src8} {s t : State} (h : addMem8 r withC op s = .next t) :
    s.NoNewX t := by
  rw [addMem8, outcome_next_iff, bind_ok_iff] at h
  obtain ⟨⟨m, u⟩, hu, ht⟩ := h
  cases ht
  exact NoNewX_trans (NoNewX_of_Steady (opnd8_steady m u hu)) (NoNewX_addInto u r m _)

/-- PULC answers the pulled byte loaded into CCR (R218). -/
theorem execPulc_next_iff (s t : State) :
    execPulc s = .next t ↔ ∃ v u, s.pull8 = .ok (v, u) ∧ t = u.loadCcr v := by
  rw [execPulc, outcome_next_iff, bind_ok_iff]
  simp only [Prod.exists, Except.ok.injEq, @eq_comm _ t]

theorem pulc_noNewX {s t : State} (h : execPulc s = .next t) : s.NoNewX t := by
  obtain ⟨v, u, hu, rfl⟩ := (execPulc_next_iff s t).1 h
  exact NoNewX_trans (NoNewX_of_Steady (pull8_steady v u hu)) (NoNewX_loadCcr u v)

theorem rti_noNewX {s t : State} (h : execRti s = .next t) : s.NoNewX t := by
  obtain ⟨e, v, hc⟩ := returnFromException_frame s t ((outcome_next_iff _ t).1 h)
  have hs : t.stopped = s.stopped := by rw [e]
  have hx : t.flag .x = (s.loadCcr v).flag .x := by rw [flag_def, flag_def, hc, loadCcr_ccr]
  exact ⟨fun h => (NoNewX_loadCcr s v).x (hx ▸ h), hs⟩

/-- SWI changes no bit of CCR but I, and leaves the CPU running (R421, R441). -/
theorem swi_next {s t : State} (h : execSwi s = .next t) : t.ccr = ccrPut s.ccr .i true ∧ t.stopped = false := by
  obtain ⟨e, -⟩ := takeException_frame s s.cfg.swiVector true false t ((outcome_next_iff _ t).1 h)
  rw [e]
  exact ⟨rfl, rfl⟩

/-- STOP with S = 1 does nothing (R424). -/
theorem execStop_of_s (s : State) (h : s.flag .s = true) : execStop s = .next s := if_pos h

/-- STOP with S = 0 answers a pushed frame and the stopped state (R424). -/
theorem execStop_next_iff (s t : State) (h : s.flag .s = false) :
    execStop s = .next t ↔ ∃ u, s.pushFrame = .ok u ∧ t = { u with stopped := true } := by
  rw [execStop, if_neg (by simp [h]), outcome_next_iff, bind_ok_iff]
  simp only [Except.ok.injEq, @eq_comm _ t]

/-- STOP leaves CCR alone, and the CPU is stopped after it if it was or if S = 0 (R424). -/
theorem stop_next {s t : State} (h : execStop s = .next t) :
    t.ccr = s.ccr ∧ t.stopped = (s.stopped || !s.flag .s) := by
  cases hS : s.flag .s with
  | true =>
    cases (execStop_of_s s hS).symm.trans h
    simp
  | false =>
    obtain ⟨u, hu, rfl⟩ := (execStop_next_iff s t hS).1 h
    obtain ⟨e, -, -⟩ := pushFrame_frame s u hu
    have hc : u.ccr = s.ccr := by rw [e]
    exact ⟨hc, by simp⟩

/-! ## All instructions -/

/-- An instruction that is none of those of R43 and neither SWI nor STOP leaves H, X and the stopped state as they are. -/
theorem exec_steady {i : Instr} {s t : State} (hH : mayChangeH i = false) (hswi : i ≠ .swi) (hstop : i ≠ .stop)
    (h : exec i s = .next t) : s.Steady t := by
  cases i with
  | aba | adca | adcb | adda | addb | pulc | rti | tap | andcc | orcc => exact absurd hH.symm Bool.false_ne_true
  | swi => exact absurd rfl hswi
  | stop => exact absurd rfl hstop
  | suba | sbca | subb | sbcb => exact subMem8_steady h
  | cmpa | cmpb => exact cmpMem8_steady h
  | cpd | cpx | cpy | cps => exact cmpMem16_steady h
  | subd => exact subd_steady h
  | addd => exact addd_steady h
  | anda | andb | eora | eorb | oraa | orab => exact logicMem8_steady h
  | bita | bitb => exact bitTest8_steady h
  | ldaa | ldab => exact load8_steady h
  | ldd | ldx | ldy | lds => exact load16_steady h
  | staa | stab => exact store8_steady h
  | std | stx | sty | sts => exact store16_steady h
  | leax | leay | leas => exact lea_steady h
  | abx => exact lea_steady (i := .acc .x .b) h
  | aby => exact lea_steady (i := .acc .y .b) h
  | des => exact lea_steady (i := .ofs5 .sp (-1)) h
  | ins => exact lea_steady (i := .ofs5 .sp 1) h
  | movb => exact movb_steady h
  | movw => exact movw_steady h
  | psha | pshb | pshc => exact pushByte_steady h
  | pshd | pshx | pshy => exact pushWord_steady h
  | pula | pulb => exact pullInto8_steady h
  | puld | pulx | puly => exact pullInto16_steady h
  | neg => exact modify8_steady SteadyOp_neg h
  | com => exact modify8_steady SteadyOp_com h
  | inc => exact modify8_steady SteadyOp_inc h
  | dec => exact modify8_steady SteadyOp_dec h
  | lsr => exact modify8_steady SteadyOp_lsr h
  | rol => exact modify8_steady SteadyOp_rol h
  | ror => exact modify8_steady SteadyOp_ror h
  | asr => exact modify8_steady SteadyOp_asr h
  | asl | lsl => exact modify8_steady SteadyOp_asl h
  | bclr | bset => exact modifyBits_steady h
  | clr => exact clr_steady h
  | tst => exact tst_steady h
  | nega | negb => cases h; exact Steady_modifyAcc SteadyOp_neg _ s
  | coma | comb => cases h; exact Steady_modifyAcc SteadyOp_com _ s
  | inca | incb => cases h; exact Steady_modifyAcc SteadyOp_inc _ s
  | deca | decb => cases h; exact Steady_modifyAcc SteadyOp_dec _ s
  | lsra | lsrb => cases h; exact Steady_modifyAcc SteadyOp_lsr _ s
  | rola | rolb => cases h; exact Steady_modifyAcc SteadyOp_rol _ s
  | rora | rorb => cases h; exact Steady_modifyAcc SteadyOp_ror _ s
  | asra | asrb => cases h; exact Steady_modifyAcc SteadyOp_asr _ s
  | asla | aslb | lsla | lslb => cases h; exact Steady_modifyAcc SteadyOp_asl _ s
  | asld | lsld => cases h; exact Steady_shiftD s (asl16 s.d)
  | lsrd => cases h; exact Steady_shiftD s (lsr16 s.d)
  | clra | clrb => cases h; exact Steady_trans (Steady_set8 s _ _) (Steady_putNZVC _ _ _ _ _)
  | tsta | tstb => cases h; exact Steady_putNZVC s _ _ _ _
  | sba => cases h; exact Steady_subInto s _ _ _
  | cba => cases h; exact Steady_aluFlags s _
  | dex | dey | inx | iny => cases h; exact Steady_count16 s _ _
  | tab | tba => cases h; exact Steady_trans (Steady_set8 s _ _) (Steady_logicFlags _ _)
  | daa => exact daa_steady h
  | mul => exact mul_steady h
  | idiv => exact idiv_steady h
  | fdiv => exact fdiv_steady h
  | tfr r1 r2 => cases h; exact Steady_transfer s r1 r2 (by simpa [mayChangeH] using hH)
  | exg r1 r2 =>
    have hr : r1 ≠ .ccr ∧ r2 ≠ .ccr := by simpa [mayChangeH] using hH
    cases h; exact Steady_exchange s r1 r2 hr.1 hr.2
  | tpa | tsx | tsy | txs | tys => cases h; exact Steady_transfer s _ _ nofun
  | xgdx | xgdy => cases h; exact Steady_exchange s _ _ nofun nofun
  | clc | cli | clv => cases h; exact Steady_andCcr s _ (by decide) (by decide)
  | sec | sei | sev => cases h; exact Steady_orCcr s _ (by decide)
  | bra | bhi | bls | bcc | bcs | bne | beq | bvc | bvs | bpl | bmi | bge | blt | bgt | ble | bhs | blo =>
    exact branchIf_steady h
  | brclr m mm rr => exact branchOnBits_steady (test := fun v => v &&& mm == 0) h
  | brset m mm rr => exact branchOnBits_steady (test := fun v => ~~~v &&& mm == 0) h
  | jmp => exact jmp_steady h
  | jsr => exact jsr_steady h
  | bsr => exact bsr_steady h
  | rts => exact rts_steady h
  | dbeq | dbne | ibeq | ibne => exact loopOp_steady h
  | tbeq | tbne => cases h; exact Steady_branch s _ _
  | nop => cases h; exact Steady_refl s

/-- An instruction that is neither SWI nor STOP does not set X and leaves the stopped state as it is. -/
theorem exec_noNewX {i : Instr} {s t : State} (hswi : i ≠ .swi) (hstop : i ≠ .stop) (h : exec i s = .next t) :
    s.NoNewX t := by
  cases hH : mayChangeH i with
  | false => exact NoNewX_of_Steady (exec_steady hH hswi hstop h)
  | true =>
    cases i with
    | aba => cases h; exact NoNewX_addInto s _ _ _
    | adca | adcb | adda | addb => exact addMem8_noNewX h
    | pulc => exact pulc_noNewX h
    | rti => exact rti_noNewX h
    | tap => cases h; exact NoNewX_transfer s _ _
    | tfr r1 r2 => cases h; exact NoNewX_transfer s r1 r2
    | exg r1 r2 => cases h; exact NoNewX_exchange s r1 r2
    | andcc ii => cases h; exact NoNewX_andCcr s ii
    | orcc ii => cases h; exact NoNewX_orCcr s ii
    | _ => exact absurd hH Bool.false_ne_true

/-- Settles O18: SWI sets I only and STOP writes no flag; every other instruction leaves X, clears it or loads it through
`LoadCCR`. -/
theorem noInstructionSetsX : Obligations.NoInstructionSetsX := by
  intro i s t h hx
  by_cases hswi : i = .swi
  · subst hswi
    obtain ⟨hc, -⟩ := swi_next h
    rwa [flag_def, hc, ccrFlag_ccrPut] at hx
  by_cases hstop : i = .stop
  · subst hstop
    obtain ⟨hc, -⟩ := stop_next h
    rwa [flag_def, hc] at hx
  exact (exec_noNewX hswi hstop h).x hx

/-- Settles O19: SWI leaves the CPU running, STOP stops it if S = 0, no other instruction writes the stopped state. -/
theorem onlyStopStops : Obligations.OnlyStopStops := by
  intro i s t h hs
  by_cases hswi : i = .swi
  · subst hswi
    simp [(swi_next h).2]
  by_cases hstop : i = .stop
  · subst hstop
    simp [(stop_next h).2, hs]
  · simp [(exec_noNewX hswi hstop h).stopped, hs, hstop]

/-- Settles O20: SWI and STOP do not write H, and every other instruction outside the list is steady. -/
theorem halfCarryOnlyByAdditions : Obligations.HalfCarryOnlyByAdditions := by
  intro i s t h hH
  by_cases hswi : i = .swi
  · subst hswi
    rw [flag_def, (swi_next h).1, ccrFlag_ccrPut]
    rfl
  by_cases hstop : i = .stop
  · subst hstop
    rw [flag_def, (stop_next h).1]
    rfl
  exact (exec_steady hH hswi hstop h).h

end Sys2Proof.Machine
end

section
/-! PROOFS. Instructions that write registers and flags only: transfers, exchanges and the loads of CCR (R47, R222 to R234),
with RTI and STOP beside them (R422, R424). -/

namespace Sys2Proof.Machine

/-! ## Changes of registers and flags only -/

/-- From `s` to `t` no byte of memory and not PC, and of the rest only what `State.Effect` names. -/
structure State.Writes (s t : State) (regs : List RegName) (flags : List (Flag × Bool)) (free : List Flag) : Prop where
  effect : s.Effect t regs flags free
  mem : s.SameMem t
  pc : t.pc = s.pc

theorem Completes_of_Writes {i : Instr} {s t : State} {regs : List RegName} {flags : List (Flag × Bool)}
    {post : State → Prop} (he : exec i s = .next t) (hw : s.Writes t regs flags []) (hp : post t) :
    Completes i s regs flags post := ⟨t, he, hw.effect, hw.mem, hw.pc, hp⟩

/-- A change that leaves CCR alone writes no flag. -/
theorem Effect_of_ccr {s t : State} {regs : List RegName} (hr : ∀ r, r ∉ regs → t.reg r = s.reg r) (hc : t.ccr = s.ccr)
    (hs : t.stopped = s.stopped) (hi : t.inputs = s.inputs) (hg : t.cfg = s.cfg) : s.Effect t regs [] [] :=
  ⟨hr, fun _ h => absurd h List.not_mem_nil, fun f _ _ => by rw [flag_def, flag_def, hc], hs, hi, hg⟩

/-- CCR is its eight flags (R37). -/
theorem ccr_ext {c d : Byte} (h : ∀ f, ccrFlag c f = ccrFlag d f) : c = d := by
  apply BitVec.eq_of_getLsbD_eq
  intro i hi
  have hpos : ∃ f : Flag, f.pos = i := by
    match i, hi with
    | 0, _ => exact ⟨.c, rfl⟩
    | 1, _ => exact ⟨.v, rfl⟩
    | 2, _ => exact ⟨.z, rfl⟩
    | 3, _ => exact ⟨.n, rfl⟩
    | 4, _ => exact ⟨.i, rfl⟩
    | 5, _ => exact ⟨.h, rfl⟩
    | 6, _ => exact ⟨.x, rfl⟩
    | 7, _ => exact ⟨.s, rfl⟩
  obtain ⟨f, rfl⟩ := hpos
  exact h f

/-- `loadedFlags` lists every flag with the value that `LoadCCR` gives it (R47). -/
theorem mem_loadedFlags (s : State) (v : Byte) (f : Flag) : (f, ccrFlag (ccrLoad s.ccr v) f) ∈ loadedFlags s v := by
  rw [ccrFlag_ccrLoad]
  cases f <;> simp [loadedFlags, flag_def, ccrFlag, Flag.pos]

/-- What writes the loaded flags loads CCR. -/
theorem ccr_of_loadedFlags {s t : State} {regs : List RegName} {v : Byte} (h : s.Effect t regs (loadedFlags s v) []) :
    t.ccr = ccrLoad s.ccr v := ccr_ext fun f => h.flagsSet _ (mem_loadedFlags s v f)

/-- A change that loads a byte into CCR writes every flag (R47). -/
theorem Effect_of_ccrLoad {s t : State} {regs : List RegName} {v : Byte} (hr : ∀ r, r ∉ regs → t.reg r = s.reg r)
    (hc : t.ccr = ccrLoad s.ccr v) (hs : t.stopped = s.stopped) (hi : t.inputs = s.inputs) (hg : t.cfg = s.cfg) :
    s.Effect t regs (loadedFlags s v) [] := by
  have hf : ∀ f, t.flag f = if f = .x then s.flag .x && ccrFlag v .x else ccrFlag v f := fun f => by
    rw [flag_def, hc, ccrFlag_ccrLoad, flag_def]
  refine ⟨hr, ?_, ?_, hs, hi, hg⟩
  · simp [loadedFlags, hf, ccrFlag, Flag.pos]
  · intro f h
    cases f <;> exact absurd (by simp [loadedFlags]) h

/-- One change after another, where the second keeps the flags that the first has written. -/
theorem Writes_trans {s t u : State} {l l' : List RegName} {fl fl' : List (Flag × Bool)} {free free' : List Flag}
    (h : s.Writes t l fl free) (h' : t.Writes u l' fl' free')
    (hkeep : ∀ p ∈ fl, p.1 ∉ fl'.map Prod.fst ∧ p.1 ∉ free' := by simp) :
    s.Writes u (l ++ l') (fl ++ fl') (free ++ free') where
  effect :=
    { regs := fun r hr => by
        rw [List.mem_append, not_or] at hr
        exact (h'.effect.regs r hr.2).trans (h.effect.regs r hr.1)
      flagsSet := fun p hp => by
        rcases List.mem_append.1 hp with hp | hp
        · exact (h'.effect.flagsKept p.1 (hkeep p hp).1 (hkeep p hp).2).trans (h.effect.flagsSet p hp)
        · exact h'.effect.flagsSet p hp
      flagsKept := fun f hf hn => by
        rw [List.map_append, List.mem_append, not_or] at hf
        rw [List.mem_append, not_or] at hn
        exact (h'.effect.flagsKept f hf.2 hn.2).trans (h.effect.flagsKept f hf.1 hn.1)
      stopped := h'.effect.stopped.trans h.effect.stopped
      inputs := h'.effect.inputs.trans h.effect.inputs
      cfg := h'.effect.cfg.trans h.effect.cfg }
  mem := fun a => (h'.mem a).trans (h.mem a)
  pc := h'.pc.trans h.pc

theorem Writes_subset {s t : State} {l l' : List RegName} {fl : List (Flag × Bool)} {free : List Flag}
    (h : s.Writes t l fl free) (hl : ∀ r ∈ l, r ∈ l') : s.Writes t l' fl free :=
  ⟨{ h.effect with regs := fun r hr => h.effect.regs r fun hm => hr (hl r hm) }, h.mem, h.pc⟩

/-- Of every flag nothing need be said. -/
theorem Effect_forget_flags {s t : State} {l : List RegName} {fl : List (Flag × Bool)} {free : List Flag}
    (h : s.Effect t l fl free) : s.Effect t l [] [.s, .x, .h, .i, .n, .z, .v, .c] :=
  ⟨h.regs, fun _ hp => absurd hp List.not_mem_nil, fun f _ hf => by cases f <;> exact absurd (by simp) hf, h.stopped,
    h.inputs, h.cfg⟩

theorem Writes_refl (s : State) : s.Writes s [] [] [] :=
  ⟨Effect_of_ccr (fun _ _ => rfl) rfl rfl rfl rfl, fun _ => rfl, rfl⟩

theorem Writes_drawByte (s : State) : s.Writes s.drawByte.2 [] [] [] :=
  ⟨Effect_of_ccr (fun r _ => by cases r <;> rfl) rfl rfl rfl rfl, fun _ => rfl, rfl⟩

theorem Writes_drawWord (s : State) : s.Writes s.drawWord.2 [] [] [] :=
  ⟨Effect_of_ccr (fun r _ => by cases r <;> rfl) rfl rfl rfl rfl, fun _ => rfl, rfl⟩

theorem Writes_set8 (s : State) (r : Reg8) (v : Byte) : s.Writes (s.set8 r v) (reg8Names r) [] [] := by
  have hr : ∀ n, n ∉ reg8Names r → (s.set8 r v).reg n = s.reg n := fun n hn => by
    cases r <;> cases n <;> first | rfl | exact absurd List.mem_cons_self hn
  exact ⟨Effect_of_ccr hr (set8_ccr s r v) (set8_stopped s r v) (set8_inputs s r v) (set8_cfg s r v),
    fun a => by rw [State.byteAt, State.byteAt, set8_mem], set8_pc s r v⟩

theorem Writes_logicFlags {w : Nat} (s : State) (r : BitVec w) :
    s.Writes (s.logicFlags r) [] [(.n, r.msb), (.z, r == 0), (.v, false)] [] where
  effect :=
    { regs := fun q _ => by cases q <;> simp
      flagsSet := by simp
      flagsKept := fun f hf _ => by
        simp only [List.map_cons, List.map_nil, List.mem_cons, List.not_mem_nil, or_false, not_or] at hf
        simp [hf]
      stopped := by simp
      inputs := by simp
      cfg := by simp }
  mem := fun a => by simp [State.byteAt]
  pc := by simp

theorem Writes_loadCcr (s : State) (v : Byte) : s.Writes (s.loadCcr v) [] (loadedFlags s v) [] :=
  ⟨Effect_of_ccrLoad (fun r _ => by cases r <;> rfl) rfl rfl rfl rfl, fun _ => rfl, rfl⟩

/-! ## The registers of TFR and EXG -/

theorem loByte_setWidth (v : Byte) : loByte (v.setWidth 16) = v := by
  apply BitVec.eq_of_toNat_eq
  have := v.isLt
  simp only [loByte, BitVec.extractLsb'_toNat, BitVec.toNat_setWidth, Nat.shiftRight_zero]
  omega

/-- The low byte of a register is that of its value as a word (R223(b)). -/
theorem regLow_eq_loByte (s : State) (r : Reg) : s.regLow r = loByte (s.regWord r) := by
  cases r with
  | a | b | ccr => exact (loByte_setWidth _).symm
  | d => exact (loByte_mkWord s.a s.b).symm
  | x | y | sp => rfl

/-- The value of an 8-bit register as a word is its byte zero-extended (R224(b)). -/
theorem regWord_eq_setWidth (s : State) (r : Reg) (h : regWide r = false) : s.regWord r = (s.regLow r).setWidth 16 := by
  cases r with
  | a | b | ccr => rfl
  | d | x | y | sp => exact absurd h (by decide)

theorem ne_ccr_of_regWide (r : Reg) (h : regWide r = true) : r ≠ .ccr := by
  rintro rfl
  exact absurd h (by decide)

/-- Writing a register leaves every other one alone. -/
theorem reg_setReg (s : State) (r : Reg) (v : Word) (n : RegName) (hn : n ∉ regNames r) :
    (s.setReg r v).reg n = s.reg n := by
  cases r <;> cases n <;> first | rfl | exact absurd (by simp [regNames]) hn

/-- Writing a register but CCR changes nothing else. -/
theorem Writes_setReg (s : State) (r : Reg) (v : Word) (hr : r ≠ .ccr) : s.Writes (s.setReg r v) (regNames r) [] [] := by
  have hregs := reg_setReg s r v
  cases r with
  | ccr => exact absurd rfl hr
  | a | b | d | x | y | sp => exact ⟨Effect_of_ccr hregs rfl rfl rfl rfl, fun _ => rfl, rfl⟩

theorem setReg_ccr (s : State) (v : Word) : s.setReg .ccr v = s.loadCcr (loByte v) := rfl

theorem ccr_setReg (s : State) (r : Reg) (v : Word) (hr : r ≠ .ccr) : (s.setReg r v).ccr = s.ccr := by
  cases r with
  | ccr => exact absurd rfl hr
  | a | b | d | x | y | sp => rfl

theorem regWord_setReg_wide (s : State) (r : Reg) (v : Word) (h : regWide r = true) : (s.setReg r v).regWord r = v := by
  cases r with
  | a | b | ccr => exact absurd h (by decide)
  | d => exact mkWord_hiByte_loByte v
  | x | y | sp => rfl

theorem regLow_setReg (s : State) (r : Reg) (v : Word) (h : r ≠ .ccr) : (s.setReg r v).regLow r = loByte v := by
  cases r with
  | ccr => exact absurd rfl h
  | a | b | d | x | y | sp => rfl

/-- A register takes the value of one of its own size whole (R223(a), R224(a)). -/
theorem regWord_setReg_regWord (s u : State) (q r : Reg) (hq : q ≠ .ccr) (hw : regWide r = regWide q) :
    (u.setReg q (s.regWord r)).regWord q = s.regWord r := by
  cases hwide : regWide q with
  | true => exact regWord_setReg_wide u q _ hwide
  | false => rw [regWord_eq_setWidth _ q hwide, regLow_setReg u q _ hq, ← regLow_eq_loByte,
      regWord_eq_setWidth s r (hw.trans hwide)]

/-- The value of a register but CCR comes from the registers behind it. -/
theorem regWord_congr (s t : State) (q : Reg) (hq : q ≠ .ccr) (h : ∀ n ∈ regNames q, t.reg n = s.reg n) :
    t.regWord q = s.regWord q := by
  cases q with
  | ccr => exact absurd rfl hq
  | a | b | x | y | sp => exact h _ List.mem_cons_self
  | d =>
    have ha := congrArg loByte (h .a (by decide))
    have hb := congrArg loByte (h .b (by decide))
    simp only [reg_a, reg_b, loByte_setWidth] at ha hb
    exact congrArg₂ mkWord ha hb

/-- The registers of TFR and EXG (R222), for facts that are settled by looking at each pair of them. -/
def transferRegs : List Reg := [.a, .b, .ccr, .d, .x, .y, .sp]

theorem mem_transferRegs (r : Reg) : r ∈ transferRegs := by cases r <;> decide

/-- Two registers share one only where they are the same or overlap (R224). -/
theorem regNames_disjoint (r q : Reg) (hne : r ≠ q) (ho : exchangeOverlap r q = false) :
    ∀ n ∈ regNames q, n ∉ regNames r :=
  have all : ∀ r ∈ transferRegs, ∀ q ∈ transferRegs, r ≠ q → exchangeOverlap r q = false →
      ∀ n ∈ regNames q, n ∉ regNames r := by decide
  all r (mem_transferRegs r) q (mem_transferRegs q) hne ho

theorem exchangeOverlap_comm (r q : Reg) : exchangeOverlap q r = exchangeOverlap r q := by
  cases r <;> cases q <;> rfl

/-- Only registers of different size overlap (R224). -/
theorem exchangeOverlap_of_regWide_eq (r q : Reg) (h : regWide r = regWide q) : exchangeOverlap r q = false :=
  have all : ∀ r ∈ transferRegs, ∀ q ∈ transferRegs, regWide r = regWide q → exchangeOverlap r q = false := by decide
  all r (mem_transferRegs r) q (mem_transferRegs q) h

/-- Writing a register leaves the value of another one alone. -/
theorem regWord_setReg_other (s : State) (r q : Reg) (v : Word) (hq : q ≠ .ccr) (hne : r ≠ q)
    (ho : exchangeOverlap r q = false) : (s.setReg r v).regWord q = s.regWord q :=
  regWord_congr _ _ q hq fun n hn => reg_setReg s r v n (regNames_disjoint r q hne ho n hn)

theorem regLow_setReg_other (s : State) (r q : Reg) (v : Word) (hq : q ≠ .ccr) (hne : r ≠ q)
    (ho : exchangeOverlap r q = false) : (s.setReg r v).regLow q = s.regLow q := by
  rw [regLow_eq_loByte, regLow_eq_loByte, regWord_setReg_other s r q v hq hne ho]

theorem loadedFlags_congr {s u : State} (v : Byte) (h : u.ccr = s.ccr) : loadedFlags u v = loadedFlags s v := by
  simp only [loadedFlags, flag_def, h]

/-! ## TFR -/

theorem exec_tfr (r1 r2 : Reg) (s : State) : exec (.tfr r1 r2) s = .next (s.transfer r1 r2) := rfl

/-- From 8 to 16 bits TFR extends (R223(c)). -/
theorem transfer_widen (s : State) (r1 r2 : Reg) (h1 : regWide r1 = false) (h2 : regWide r2 = true) :
    s.transfer r1 r2 = s.setReg r2 (s.widen (s.regLow r1)) := if_pos (by simp [h1, h2])

/-- Otherwise the value is written as it is, its low byte into an 8-bit register (R223(a), R223(b)). -/
theorem transfer_plain (s : State) (r1 r2 : Reg) (h : regWide r2 = true → regWide r1 = true) :
    s.transfer r1 r2 = s.setReg r2 (s.regWord r1) := by
  refine if_neg ?_
  simp only [Bool.and_eq_true, Bool.not_eq_true', not_and, Bool.not_eq_true]
  intro h1
  rw [← Bool.not_eq_true]
  exact fun h2 => absurd (h h2) (by simp [h1])

/-- TFR into CCR goes through `LoadCCR` with the low byte of the source (R47, R222). -/
theorem transfer_ccr (s : State) (r : Reg) : s.transfer r .ccr = s.loadCcr (s.regLow r) := by
  rw [transfer_plain s r .ccr nofun, setReg_ccr, ← regLow_eq_loByte]

/-- A TFR completes with one register written, whatever the sizes, if the destination is not CCR. -/
theorem Writes_transfer (s : State) (r1 r2 : Reg) (h : r2 ≠ .ccr) :
    s.Writes (s.transfer r1 r2) (regNames r2) [] [] := by
  obtain ⟨v, e⟩ := transfer_eq_setReg s r1 r2
  exact e ▸ Writes_setReg s r2 v h

theorem tfr_same (s : State) (r1 r2 : Reg) (h : r2 ≠ .ccr) (hw : regWide r1 = regWide r2) :
    Completes (.tfr r1 r2) s (regNames r2) [] fun t => t.regWord r2 = s.regWord r1 := by
  refine Completes_of_Writes (exec_tfr r1 r2 s) (Writes_transfer s r1 r2 h) ?_
  rw [transfer_plain s r1 r2 hw.trans]
  exact regWord_setReg_regWord s s r2 r1 h hw

/-- TAB and TBA: a copy of one accumulator into the other with the flags of a load (R233, R234). -/
theorem tab_tba_completes {i : Instr} {s : State} (r : Reg8) (v : Byte)
    (he : exec i s = .next ((s.set8 r v).logicFlags v)) :
    Completes i s (reg8Names r) [(.n, v.msb), (.z, v == 0), (.v, false)] fun t => t.get8 r = v := by
  have hw := Writes_trans (Writes_set8 s r v) (Writes_logicFlags (s.set8 r v) v)
  rw [List.append_nil] at hw
  refine Completes_of_Writes he hw ?_
  cases r <;> simp

/-- Settles O41: each transfer is one register written, and its value follows from the sizes of the two registers. -/
theorem transferRegister : Obligations.TransferRegister := by
  refine ⟨fun r1 r2 s h hw => tfr_same s r1 r2 h hw, ?narrow, ?widen, ?ccr,
    fun s => Completes_of_Writes rfl (transfer_ccr s .a ▸ Writes_loadCcr s s.a) trivial, fun s => ?tpa,
    fun s => tfr_same s .sp .x nofun rfl, fun s => tfr_same s .sp .y nofun rfl, fun s => tfr_same s .x .sp nofun rfl,
    fun s => tfr_same s .y .sp nofun rfl, fun s => tab_tba_completes .b s.a rfl, fun s => tab_tba_completes .a s.b rfl⟩
  case narrow =>
    intro r1 r2 s h h1 h2
    refine Completes_of_Writes (exec_tfr r1 r2 s) (Writes_transfer s r1 r2 h) ?_
    rw [transfer_plain s r1 r2 fun _ => h1]
    exact regLow_setReg s r2 _ h
  case widen =>
    intro r1 r2 s h1 h2
    refine Completes_of_Writes (exec_tfr r1 r2 s) (Writes_transfer s r1 r2 (ne_ccr_of_regWide r2 h2)) ?_
    rw [transfer_widen s r1 r2 h1 h2, regWord_setReg_wide s r2 _ h2]
    exact ⟨fun h => by rw [State.widen, h], fun h => by rw [State.widen, h]⟩
  case ccr =>
    intro r s
    exact Completes_of_Writes (exec_tfr r .ccr s) (transfer_ccr s r ▸ Writes_loadCcr s (s.regLow r)) trivial
  case tpa =>
    refine Completes_of_Writes rfl (Writes_transfer s .ccr .a nofun) ?_
    exact loByte_setWidth s.ccr

/-! ## EXG -/

theorem exec_exg (r1 r2 : Reg) (s : State) : exec (.exg r1 r2) s = .next (s.exchange r1 r2) := rfl

/-- Where the pair shares an accumulator, D is a free value (R224, D13). -/
theorem exchange_overlap (s : State) (r1 r2 : Reg) (h : exchangeOverlap r1 r2 = true) :
    s.exchange r1 r2 = s.drawWord.2.setD s.drawWord.1 := if_pos h

/-- Two registers of one size swap (R224(a)). -/
theorem exchange_same (s : State) (r1 r2 : Reg) (h : regWide r1 = regWide r2) :
    s.exchange r1 r2 = (s.setReg r1 (s.regWord r2)).setReg r2 (s.regWord r1) := by
  simp only [State.exchange, exchangeOverlap_of_regWide_eq r1 r2 h, h, Bool.not_and_self, Bool.and_not_self,
    Bool.false_eq_true, if_false]

/-- An 8-bit register before a 16-bit one: the one takes a free value, the other the zero-extended byte (R224(b)). -/
theorem exchange_narrow_wide (s : State) (r1 r2 : Reg) (h1 : regWide r1 = false) (h2 : regWide r2 = true)
    (ho : exchangeOverlap r1 r2 = false) :
    s.exchange r1 r2 = (s.drawByte.2.setReg r2 (s.regWord r1)).setReg r1 (mkWord 0 s.drawByte.1) := by
  simp only [State.exchange, ho, h1, h2, Bool.false_eq_true, if_false, Bool.not_false, Bool.and_self, if_true]

/-- A 16-bit register before an 8-bit one: low bytes are swapped, the high byte of the one is free (R224(c)). -/
theorem exchange_wide_narrow (s : State) (r1 r2 : Reg) (h1 : regWide r1 = true) (h2 : regWide r2 = false)
    (ho : exchangeOverlap r1 r2 = false) :
    s.exchange r1 r2 =
      (s.drawByte.2.setReg r1 (mkWord s.drawByte.1 (s.regLow r2))).setReg r2 (s.regWord r1) := by
  simp only [State.exchange, ho, h1, h2, Bool.false_eq_true, if_false, Bool.not_false, Bool.and_self, if_true,
    Bool.not_true]

/-- Two register writes after each other, the second of them not CCR. -/
theorem Writes_setReg_setReg (s : State) (r q : Reg) (v w : Word) (hr : r ≠ .ccr) (hq : q ≠ .ccr) :
    s.Writes ((s.setReg r v).setReg q w) (regNames r ++ regNames q) [] [] :=
  Writes_trans (Writes_setReg s r v hr) (Writes_setReg _ q w hq)

/-- A register write and a load of CCR, in this order. -/
theorem Writes_setReg_ccr (s : State) (r : Reg) (v w : Word) (hr : r ≠ .ccr) :
    s.Writes ((s.setReg r v).setReg .ccr w) (regNames r) (loadedFlags s (loByte w)) [] := by
  have h := Writes_trans (Writes_setReg s r v hr) (Writes_loadCcr (s.setReg r v) (loByte w))
  rwa [List.append_nil, loadedFlags_congr _ (ccr_setReg s r v hr)] at h

/-- A load of CCR and a register write, in this order. -/
theorem Writes_ccr_setReg (s : State) (r : Reg) (v w : Word) (hr : r ≠ .ccr) :
    s.Writes ((s.setReg .ccr w).setReg r v) (regNames r) (loadedFlags s (loByte w)) [] :=
  Writes_trans (Writes_loadCcr s (loByte w)) (Writes_setReg _ r v hr)

theorem exg_same (s : State) (r1 r2 : Reg) (h1 : r1 ≠ .ccr) (h2 : r2 ≠ .ccr) (hw : regWide r1 = regWide r2) :
    Completes (.exg r1 r2) s (regNames r1 ++ regNames r2) [] fun t =>
      t.regWord r2 = s.regWord r1 ∧ t.regWord r1 = s.regWord r2 := by
  refine Completes_of_Writes (t := (s.setReg r1 (s.regWord r2)).setReg r2 (s.regWord r1)) ?_
    (Writes_setReg_setReg s r1 r2 _ _ h1 h2) ⟨regWord_setReg_regWord s _ r2 r1 h2 hw, ?_⟩
  · rw [exec_exg, exchange_same s r1 r2 hw]
  · by_cases he : r2 = r1
    · subst he
      exact regWord_setReg_regWord s _ r2 r2 h2 rfl
    · rw [regWord_setReg_other _ r2 r1 _ h1 he (exchangeOverlap_of_regWide_eq r2 r1 hw.symm)]
      exact regWord_setReg_regWord s s r1 r2 h1 hw.symm

/-- EXG of A or B with CCR, in both orders: the register takes CCR, CCR is loaded with the register (R47, R224(a)). -/
theorem exg_narrow_ccr (s : State) (r : Reg) (hr : r ≠ .ccr) (hw : regWide r = false) :
    (Completes (.exg r .ccr) s (regNames r) (loadedFlags s (s.regLow r)) fun t => t.regLow r = s.ccr) ∧
      Completes (.exg .ccr r) s (regNames r) (loadedFlags s (s.regLow r)) fun t => t.regLow r = s.ccr := by
  have hccr : loByte (s.regWord .ccr) = s.ccr := (regLow_eq_loByte s .ccr).symm
  constructor
  · refine Completes_of_Writes (t := (s.setReg r (s.regWord .ccr)).setReg .ccr (s.regWord r)) ?_ ?_ ?_
    · rw [exec_exg, exchange_same s r .ccr hw]
    · exact regLow_eq_loByte s r ▸ Writes_setReg_ccr s r _ _ hr
    · rw [regLow_setReg_other _ .ccr r _ hr hr.symm rfl, regLow_setReg s r _ hr, hccr]
  · refine Completes_of_Writes (t := (s.setReg .ccr (s.regWord r)).setReg r (s.regWord .ccr)) ?_ ?_ ?_
    · rw [exec_exg, exchange_same s .ccr r hw.symm]
    · exact regLow_eq_loByte s r ▸ Writes_ccr_setReg s r _ _ hr
    · rw [regLow_setReg _ r _ hr, hccr]

/-- Loading CCR with itself changes nothing. -/
theorem loadCcr_self (s : State) : s.loadCcr s.ccr = s := by
  have h : ccrLoad s.ccr s.ccr = s.ccr := ccr_ext fun f => by
    rw [ccrFlag_ccrLoad]
    split
    · rename_i hf
      rw [hf, Bool.and_self]
    · rfl
  rw [State.loadCcr, h]

theorem exg_ccr_ccr (s : State) : s.exchange .ccr .ccr = s := by
  have h : s.setReg .ccr (s.regWord .ccr) = s := by
    rw [setReg_ccr, ← regLow_eq_loByte]
    exact loadCcr_self s
  rw [exchange_same s .ccr .ccr rfl, h, h]

/-- A and B before X, Y or SP: the 16-bit register takes the byte zero-extended (R224(b)). -/
theorem exg_narrow_wide (s : State) (r1 r2 : Reg) (h : r1 ≠ .ccr) (h1 : regWide r1 = false) (h2 : regWide r2 = true)
    (ho : exchangeOverlap r1 r2 = false) :
    Completes (.exg r1 r2) s (regNames r1 ++ regNames r2) [] fun t => t.regWord r2 = (s.regLow r1).setWidth 16 := by
  have hne : r1 ≠ r2 := fun e => absurd (e ▸ h1) (by simp [h2])
  have hw := Writes_trans (Writes_drawByte s) (Writes_setReg_setReg s.drawByte.2 r2 r1 (s.regWord r1)
    (mkWord 0 s.drawByte.1) (ne_ccr_of_regWide r2 h2) h)
  rw [List.nil_append] at hw
  refine Completes_of_Writes (by rw [exec_exg, exchange_narrow_wide s r1 r2 h1 h2 ho])
    (Writes_subset hw fun r hr => List.mem_append.2 (List.mem_append.1 hr).symm) ?_
  rw [regWord_setReg_other _ r1 r2 _ (ne_ccr_of_regWide r2 h2) hne ho, regWord_setReg_wide _ r2 _ h2,
    regWord_eq_setWidth s r1 h1]

/-- CCR before a 16-bit register: the register takes CCR zero-extended, CCR is loaded with a free byte (R47, R224(b)). -/
theorem exg_ccr_wide (s : State) (r2 : Reg) (h2 : regWide r2 = true) :
    ∃ t v, exec (.exg .ccr r2) s = .next t ∧ s.Writes t (regNames r2) (loadedFlags s v) [] ∧
      t.ccr = ccrLoad s.ccr v ∧ t.regWord r2 = s.ccr.setWidth 16 := by
  have hr : r2 ≠ .ccr := ne_ccr_of_regWide r2 h2
  have ho : exchangeOverlap .ccr r2 = false := rfl
  have hw := Writes_trans (Writes_drawByte s)
    (Writes_setReg_ccr s.drawByte.2 r2 (s.regWord .ccr) (mkWord 0 s.drawByte.1) hr)
  rw [loByte_mkWord] at hw
  refine ⟨_, s.drawByte.1, by rw [exec_exg, exchange_narrow_wide s .ccr r2 rfl h2 ho], hw, ?_, ?_⟩
  · rw [setReg_ccr, loByte_mkWord, loadCcr_ccr, ccr_setReg _ r2 _ hr, drawByte_ccr]
  · rw [regWord_setReg_other _ .ccr r2 _ hr hr.symm ho, regWord_setReg_wide _ r2 _ h2]
    rfl

/-- X, Y and SP before A or B: the low byte and the 8-bit register are swapped (R224(c)). -/
theorem exg_wide_narrow (s : State) (r1 r2 : Reg) (h : r2 ≠ .ccr) (h1 : regWide r1 = true) (h2 : regWide r2 = false)
    (ho : exchangeOverlap r1 r2 = false) :
    Completes (.exg r1 r2) s (regNames r1 ++ regNames r2) [] fun t =>
      t.regLow r1 = s.regLow r2 ∧ t.regLow r2 = loByte (s.regWord r1) := by
  have hr1 : r1 ≠ .ccr := ne_ccr_of_regWide r1 h1
  have hne : r2 ≠ r1 := fun e => absurd (e ▸ h2) (by simp [h1])
  have hw := Writes_trans (Writes_drawByte s) (Writes_setReg_setReg s.drawByte.2 r1 r2
    (mkWord s.drawByte.1 (s.regLow r2)) (s.regWord r1) hr1 h)
  refine Completes_of_Writes (by rw [exec_exg, exchange_wide_narrow s r1 r2 h1 h2 ho]) hw ⟨?_, regLow_setReg _ r2 _ h⟩
  rw [regLow_setReg_other _ r2 r1 _ hr1 hne (exchangeOverlap_comm r1 r2 ▸ ho), regLow_setReg _ r1 _ hr1, loByte_mkWord]

/-- A 16-bit register before CCR: its low byte takes CCR, CCR is loaded with its low byte (R47, R224(c)). -/
theorem exg_wide_ccr (s : State) (r1 : Reg) (h1 : regWide r1 = true) :
    Completes (.exg r1 .ccr) s (regNames r1) (loadedFlags s (loByte (s.regWord r1))) fun t => t.regLow r1 = s.ccr := by
  have hr1 : r1 ≠ .ccr := ne_ccr_of_regWide r1 h1
  have ho : exchangeOverlap r1 .ccr = false := exchangeOverlap_comm r1 .ccr ▸ rfl
  have hw := Writes_trans (Writes_drawByte s)
    (Writes_setReg_ccr s.drawByte.2 r1 (mkWord s.drawByte.1 s.ccr) (s.regWord r1) hr1)
  refine Completes_of_Writes (by rw [exec_exg, exchange_wide_narrow s r1 .ccr h1 rfl ho]; rfl) hw ?_
  rw [regLow_setReg_other _ .ccr r1 _ hr1 hr1.symm rfl, regLow_setReg _ r1 _ hr1, loByte_mkWord]

/-- EXG of D with X or Y, as XGDX and XGDY name it (R231, R232). -/
theorem exg_d_completes {i : Instr} {s : State} (r : Reg) (hr : regWide r = true) (he : exec i s = exec (.exg .d r) s) :
    Completes i s ([.a, .b] ++ regNames r) [] fun t => t.d = s.regWord r ∧ t.regWord r = s.d := by
  obtain ⟨t, ht, heff, hmem, hpc, h1, h2⟩ := exg_same s .d r nofun (ne_ccr_of_regWide r hr) hr.symm
  exact ⟨t, he.trans ht, heff, hmem, hpc, h2, h1⟩

/-- Settles O42: an exchange is two register writes, after a draw where the sizes differ, or a free D. -/
theorem exchangeRegister : Obligations.ExchangeRegister := by
  refine ⟨fun r1 r2 s h1 h2 hw => exg_same s r1 r2 h1 h2 hw, fun r s hr hw => exg_narrow_ccr s r hr hw, ?ccr_ccr,
    fun r1 r2 s h h1 h2 ho => exg_narrow_wide s r1 r2 h h1 h2 ho, ?ccr_wide,
    fun r1 r2 s h h1 h2 ho => exg_wide_narrow s r1 r2 h h1 h2 ho, fun r1 s h1 => exg_wide_ccr s r1 h1, ?overlap,
    fun s => exg_d_completes .x rfl rfl, fun s => exg_d_completes .y rfl rfl⟩
  case ccr_ccr =>
    intro s
    exact Completes_of_Writes (by rw [exec_exg, exg_ccr_ccr]) (Writes_refl s) trivial
  case ccr_wide =>
    intro r2 s h2
    obtain ⟨t, v, he, hw, -, hval⟩ := exg_ccr_wide s r2 h2
    exact ⟨t, he, Effect_forget_flags hw.effect, hw.mem, hw.pc, hval, (exec_noNewX (i := .exg .ccr r2) nofun nofun he).x⟩
  case overlap =>
    intro r1 r2 s ho
    exact Completes_of_Writes (by rw [exec_exg, exchange_overlap s r1 r2 ho]; rfl)
      (Writes_trans (Writes_drawWord s) (Writes_setReg s.drawWord.2 .d s.drawWord.1 nofun)) trivial

/-! ## RTI and STOP -/

/-- RTI on plain memory (R422). -/
theorem exec_rti_plain (s : State) (h : s.PlainFrom .read s.sp 9) :
    exec .rti s = .next { s with
      a := s.byteAt (s.sp + 2), b := s.byteAt (s.sp + 1), x := s.wordAt (s.sp + 3), y := s.wordAt (s.sp + 5),
      sp := s.sp + 9, pc := s.wordAt (s.sp + 7), ccr := ccrLoad s.ccr (s.byteAt s.sp), stale := [] } :=
  congrArg outcome (returnFromException_plain s h)

/-- Settles O30: the state RTI answers, read off field by field. -/
theorem rtiReturn : Obligations.RtiReturn := by
  intro s h
  refine ⟨_, exec_rti_plain s h, Effect_of_ccrLoad ?regs rfl rfl rfl rfl, rfl, rfl, rfl, rfl, rfl, rfl, fun _ => rfl⟩
  case regs =>
    intro r hr
    cases r <;> exact absurd (by simp) hr

/-- Settles O32: with S = 0 STOP is a pushed frame and the stopped state. -/
theorem stopInstruction : Obligations.StopInstruction := by
  refine ⟨execStop_of_s, ?frame⟩
  intro s hs hw h
  obtain ⟨t, hpush, ht, hframe, hmem, -⟩ := pushFrame_plain s hw h
  have hregs : ∀ r, r ≠ .sp → t.reg r = s.reg r := fun r hr => by
    rw [ht]
    cases r <;> first | rfl | exact absurd rfl hr
  refine ⟨{ t with stopped := true }, (execStop_next_iff s _ hs).2 ⟨t, hpush, rfl⟩, rfl, congrArg State.sp ht,
    ⟨hframe.ccr, hframe.b, hframe.a, hframe.x, hframe.y, hframe.rtn⟩, hmem, (congrArg State.pc ht :),
    (congrArg State.ccr ht :), ?_, (congrArg State.inputs ht :), (congrArg State.cfg ht :)⟩
  intro r hr
  rw [← hregs r hr]
  cases r <;> rfl

/-! ## Loading a byte into CCR -/

/-- A pull of the byte that a read at SP answers. -/
theorem pull8_of_read8 {s u : State} {v : Byte} (h : s.read8 s.sp = .ok (v, u)) :
    s.pull8 = .ok (v, { u with sp := u.sp + 1 }) := by
  rw [State.pull8, h, ok_bind]

/-- EXG of any register with CCR loads CCR with its low byte (R47, R224). -/
theorem exg_ccr_loads (s : State) (r : Reg) :
    ∃ t, exec (.exg r .ccr) s = .next t ∧ t.ccr = ccrLoad s.ccr (s.regLow r) := by
  by_cases hr : r = .ccr
  · subst hr
    exact ⟨s, by rw [exec_exg, exg_ccr_ccr], congrArg State.ccr (loadCcr_self s).symm⟩
  cases hw : regWide r with
  | false =>
    obtain ⟨t, he, heff, -⟩ := (exg_narrow_ccr s r hr hw).1
    exact ⟨t, he, ccr_of_loadedFlags heff⟩
  | true =>
    obtain ⟨t, he, heff, -⟩ := exg_wide_ccr s r hw
    exact ⟨t, he, regLow_eq_loByte s r ▸ ccr_of_loadedFlags heff⟩

/-- EXG of CCR with any register loads CCR with the register's byte, or with a free one where it has 16 bits (R47, R224). -/
theorem ccr_exg_loads (s : State) (r : Reg) :
    ∃ t v, exec (.exg .ccr r) s = .next t ∧ (regWide r = false → v = s.regLow r) ∧ t.ccr = ccrLoad s.ccr v := by
  cases hw : regWide r with
  | true =>
    obtain ⟨t, v, he, -, hc, -⟩ := exg_ccr_wide s r hw
    exact ⟨t, v, he, nofun, hc⟩
  | false =>
    by_cases hr : r = .ccr
    · obtain ⟨t, he, hc⟩ := exg_ccr_loads s .ccr
      exact ⟨t, s.regLow r, hr ▸ he, fun _ => rfl, hr ▸ hc⟩
    · obtain ⟨t, he, heff, -⟩ := (exg_narrow_ccr s r hr hw).2
      exact ⟨t, s.regLow r, he, fun _ => rfl, ccr_of_loadedFlags heff⟩

/-- Settles O53: each of them loads CCR by `ccrLoad`, which is the formula of R47. -/
theorem loadCcr : Obligations.LoadCcr := by
  refine ⟨?pulc, fun s h => ⟨_, exec_rti_plain s h, rfl⟩,
    fun s r => ⟨_, exec_tfr r .ccr s, congrArg State.ccr (transfer_ccr s r)⟩,
    fun s => ⟨_, rfl, congrArg State.ccr (transfer_ccr s .a)⟩, exg_ccr_loads, ccr_exg_loads⟩
  case pulc =>
    intro s u v h
    have hc : u.ccr = s.ccr := by rw [read8_frame s s.sp v u h]
    refine ⟨_, (execPulc_next_iff s _).2 ⟨v, _, pull8_of_read8 h, rfl⟩, ?_⟩
    exact congrArg (fun c => ccrLoad c v) hc

end Sys2Proof.Machine
end

section
/-! PROOFS. The decimal adjust (R265): its correction, and why it gives the decimal sum after an addition of packed bytes. -/

namespace Sys2Proof.Machine

/-! ## The correction -/

/-- The correction of R265: 6 for the low digit, $60 for the high one. -/
theorem daaAdjust_fst (a : Byte) (h c : Bool) :
    (daaAdjust a h c).1 = (if 9 < a.toNat % 16 ∨ h = true then 0x06 else 0) +
      (if 0x99 < a.toNat ∨ c = true then 0x60 else 0) := by
  simp only [daaAdjust, Bool.or_eq_true, decide_eq_true_eq]
  split_ifs <;> rfl

/-- The carry after the correction (R265). -/
theorem daaAdjust_snd (a : Byte) (h c : Bool) : (daaAdjust a h c).2 = (decide (0x99 < a.toNat) || c) := by
  simp only [daaAdjust]
  split
  · rename_i hc
    exact hc.symm
  · rename_i hc
    rw [Bool.not_eq_true] at hc
    rw [hc]
    exact (Bool.or_eq_false_iff.1 hc).2

theorem daaAdjust_toNat (a : Byte) (h c : Bool) :
    (daaAdjust a h c).1.toNat = (if 9 < a.toNat % 16 ∨ h = true then 6 else 0) +
      (if 0x99 < a.toNat ∨ c = true then 0x60 else 0) := by
  rw [daaAdjust_fst]
  split_ifs <;> rfl

/-! ## Packed decimal bytes -/

/-- Both digits of the byte are decimal. -/
def Packed (v : Byte) : Prop := v.toNat / 16 < 10 ∧ v.toNat % 16 < 10

/-- The number that a packed decimal byte stands for. -/
def decimal (v : Byte) : Nat := v.toNat / 16 * 10 + v.toNat % 16

/-- From the binary sum `r` of two packed bytes, its half carry and its carry, the correction makes the decimal sum. -/
theorem decimal_daaAdjust (a m r : Byte) (h c : Bool) (ha : Packed a) (hm : Packed m)
    (hr : r.toNat = (a.toNat + m.toNat) % 256) (hh : h = true ↔ 16 ≤ a.toNat % 16 + m.toNat % 16)
    (hc : c = true ↔ 256 ≤ a.toNat + m.toNat) :
    (decimal (r + (daaAdjust r h c).1) + if (daaAdjust r h c).2 then 100 else 0) = decimal a + decimal m := by
  obtain ⟨ha1, ha0⟩ := ha
  obtain ⟨hm1, hm0⟩ := hm
  simp only [decimal, BitVec.toNat_add, daaAdjust_toNat, daaAdjust_snd, Bool.or_eq_true, decide_eq_true_eq, hh, hc]
  split_ifs <;> omega

/-! ## DAA -/

/-- What ADDA with an immediate leaves in A, H and C (R249). -/
theorem adda_imm_next {s t : State} {m : Byte} (h : exec (.adda (.imm m)) s = .next t) :
    t.a = (add8 s.a m false).r ∧ t.flag .h = add8H s.a m false ∧ t.flag .c = (add8 s.a m false).c := by
  obtain rfl : s.addInto .a m false = t := Host.Outcome.next.inj h
  simp [State.addInto]

/-- What DAA leaves in A and C (R265). -/
theorem daa_next {s t : State} (h : exec .daa s = .next t) :
    t.a = s.daaByte ∧ t.flag .c = s.daaCarry := by
  obtain rfl := Host.Outcome.next.inj ((execDaa_eq s).symm.trans h)
  simp

/-- Of the flags N, Z and C the values are known, of V nothing is said. -/
theorem Writes_putNZVC_freeV (s : State) (n z v c : Bool) :
    s.Writes (s.putNZVC n z v c) [] [(.n, n), (.z, z), (.c, c)] [.v] where
  effect :=
    { regs := fun q _ => by cases q <;> simp
      flagsSet := by simp
      flagsKept := fun f hf hv => by
        simp only [List.map_cons, List.map_nil, List.mem_cons, List.not_mem_nil, or_false, not_or] at hf hv
        simp [hf, hv]
      stopped := by simp
      inputs := by simp
      cfg := by simp }
  mem := fun a => by simp [State.byteAt]
  pc := by simp

theorem Writes_drawBit (s : State) : s.Writes s.drawBit.2 [] [] [] :=
  ⟨Effect_of_ccr (fun r _ => by cases r <;> rfl) rfl rfl rfl rfl, fun _ => rfl, rfl⟩

/-- Settles O46: DAA writes A and three known flags; after an addition its correction is that of `decimal_daaAdjust`. -/
theorem decimalAdjust : Obligations.DecimalAdjust := by
  constructor
  · intro s
    obtain ⟨ha, -⟩ := daa_next (execDaa_eq s)
    have hw := Writes_trans (Writes_drawBit s) (Writes_trans (Writes_set8 s.drawBit.2 .a s.daaByte)
      (Writes_putNZVC_freeV _ s.daaByte.msb (s.daaByte == 0) s.drawBit.1 s.daaCarry))
    refine ⟨_, execDaa_eq s, ⟨_, ha, daaAdjust_fst _ _ _⟩, ?_, hw.mem, hw.pc⟩
    rw [ha, ← daaAdjust_snd _ (s.flag .h)]
    exact hw.effect
  · intro s t u m ha1 ha0 hm1 hm0 hadd hdaa
    obtain ⟨hta, hth, htc⟩ := adda_imm_next hadd
    obtain ⟨hua, huc⟩ := daa_next hdaa
    rw [hua, huc]
    exact decimal_daaAdjust s.a m t.a (t.flag .h) (t.flag .c) ⟨ha1, ha0⟩ ⟨hm1, hm0⟩ (by simp [hta, add8])
      (by simp [hth, add8H]) (by simp [htc, add8])

end Sys2Proof.Machine
end

section
/-! PROOFS. The step of a quiet boundary (R35, R79, R90) and the state after reset (R52, R480, R481). That a step runs the
instruction at PC needs that a decoder which has read an instruction has not looked at the bytes after it. -/

namespace Sys2Proof

/-! ## Readers that look at no byte after what they read -/

/-- What `f` reads are the first bytes of the list, `n` of them at most, and it reads the same whatever bytes come after
them. -/
def Reads {α : Type} (n : Nat) (f : Take α) : Prop :=
  ∀ bs x rest, f bs = .ok (x, rest) →
    ∃ used, bs = used ++ rest ∧ used.length ≤ n ∧ ∀ more, f (used ++ more) = .ok (x, more)

theorem Reads_error {α : Type} (n : Nat) (e : DecodeError) : Reads (α := α) n fun _ => .error e := nofun

theorem Reads_ok {α : Type} (n : Nat) (x : α) : Reads n fun bs => .ok (x, bs) := by
  rintro bs x' rest e
  cases e
  exact ⟨[], rfl, Nat.zero_le n, fun _ => rfl⟩

/-- A reader that looks at the first byte and goes on. -/
theorem Reads_cons {α : Type} {n : Nat} {f : Take α} {e : DecodeError} (hnil : f [] = .error e)
    (hcons : ∀ b, Reads n fun bs => f (b :: bs)) : Reads (n + 1) f := by
  intro bs x rest h
  cases bs with
  | nil => exact absurd (hnil.symm.trans h) nofun
  | cons b bs =>
    obtain ⟨used, rfl, hlen, hmore⟩ := hcons b bs x rest h
    exact ⟨b :: used, rfl, Nat.succ_le_succ hlen, hmore⟩

/-- One reader after another. -/
theorem Reads_bind {α β : Type} {m n : Nat} {f : Take α} {g : α → Take β} (hf : Reads m f) (hg : ∀ a, Reads n (g a)) :
    Reads (m + n) fun bs => f bs >>= fun p => g p.1 p.2 := by
  intro bs x rest h
  dsimp only at h
  cases hfb : f bs with
  | error e =>
    rw [hfb] at h
    cases h
  | ok p =>
    obtain ⟨a, mid⟩ := p
    rw [hfb] at h
    obtain ⟨used, rfl, hlen, hmore⟩ := hf bs a mid hfb
    obtain ⟨used', rfl, hlen', hmore'⟩ := hg a mid x rest h
    refine ⟨used ++ used', (List.append_assoc ..).symm, ?_, fun more => ?_⟩
    · rw [List.length_append]
      exact Nat.add_le_add hlen hlen'
    · dsimp only
      rw [List.append_assoc, hmore (used' ++ more)]
      exact hmore' more

/-- What is read, put into a constructor. -/
theorem Reads_map {α β : Type} {n : Nat} {f : Take α} (g : α → β) (hf : Reads n f) :
    Reads n fun bs => f bs >>= fun p => .ok (g p.1, p.2) := Reads_bind hf fun a => Reads_ok 0 (g a)

/-! ## Operands

Each bound is stated for every number from the least on, so that it fits the bound of the format it stands in. -/

@[simp] theorem takeByte_reads (n : Nat) : Reads (n + 1) takeByte := Reads_cons rfl fun b => Reads_ok n b

@[simp] theorem takeWord_reads (n : Nat) : Reads (n + 2) takeWord :=
  Reads_cons rfl fun hi => Reads_cons rfl fun lo => Reads_ok n (mkWord hi lo)

/-- The post-byte of an `xb` with extension bytes is not of the class without (R100, R107(c)). -/
theorem xbShort_of_extended (xb : Byte) (h5 : xb.getLsbD 5 = true) (hr : AutoReg.ofCode (xb.extractLsb' 6 2) = none)
    (h : (xb.extractLsb' 0 3).toNat < 4) : xbShort xb = false := by
  revert xb
  decide

/-- The post-byte decides how many extension bytes an indexed form has: none, one, or two; none for the class IDX (R100). -/
theorem takeIdx_cons (xb : Byte) :
    (∃ i, ∀ bs, takeIdx (xb :: bs) = .ok (i, bs)) ∨ xbShort xb = false ∧
      ((∃ g : Byte → Idx, ∀ bs, takeIdx (xb :: bs) = takeByte bs >>= fun p => .ok (g p.1, p.2)) ∨
        ∃ g : Word → Idx, ∀ bs, takeIdx (xb :: bs) = takeWord bs >>= fun p => .ok (g p.1, p.2)) := by
  cases h5 : xb.getLsbD 5 with
  | false => exact .inl ⟨_, fun bs => if_pos h5⟩
  | true =>
    cases hr : AutoReg.ofCode (xb.extractLsb' 6 2) with
    | some r => exact .inl ⟨.auto r (xb.getLsbD 4) (xb.extractLsb' 0 4), fun bs => by simp [takeIdx, h5, hr]⟩
    | none =>
      have hshort := xbShort_of_extended xb h5 hr
      simp only [takeIdx, h5, hr, reduceCtorEq, if_false]
      match (xb.extractLsb' 0 3).toNat, hshort with
      | 0, hs | 1, hs =>
        exact .inr ⟨hs (by decide),
          .inl ⟨fun ff => .ofs9 (Base.ofCode (xb.extractLsb' 3 2)) (xb.extractLsb' 0 1 ++ ff), fun _ => rfl⟩⟩
      | 2, hs => exact .inr ⟨hs (by decide), .inr ⟨.ofs16 (Base.ofCode (xb.extractLsb' 3 2)), fun _ => rfl⟩⟩
      | 3, hs => exact .inr ⟨hs (by decide), .inr ⟨.ind16 (Base.ofCode (xb.extractLsb' 3 2)), fun _ => rfl⟩⟩
      | 4, _ | 5, _ | 6, _ | _ + 7, _ => exact .inl ⟨_, fun _ => rfl⟩

theorem takeIdx_cons_reads (n : Nat) (xb : Byte) : Reads (n + 2) fun bs => takeIdx (xb :: bs) := by
  obtain ⟨i, h⟩ | ⟨-, ⟨g, h⟩ | ⟨g, h⟩⟩ := takeIdx_cons xb
  · rw [funext h]
    exact Reads_ok _ i
  · rw [funext h]
    exact Reads_map g (takeByte_reads (n + 1))
  · rw [funext h]
    exact Reads_map g (takeWord_reads n)

/-- An indexed operand (R107(a)). -/
theorem takeIdx_reads (n : Nat) : Reads (n + 3) takeIdx := Reads_cons rfl (takeIdx_cons_reads n)

/-- An indexed operand of the class without extension bytes is its post-byte (R107(c)). -/
theorem takeIdxShort_reads (n : Nat) : Reads (n + 1) takeIdxShort := by
  refine Reads_cons rfl fun xb => ?_
  cases hs : xbShort xb with
  | false =>
    simp only [takeIdxShort, hs, Bool.false_eq_true, if_false]
    exact Reads_error n _
  | true =>
    simp only [takeIdxShort, hs, if_true]
    obtain ⟨i, h⟩ | ⟨h, -⟩ := takeIdx_cons xb
    · rw [funext h]
      exact Reads_ok n i
    · exact absurd (hs.symm.trans h) nofun

/-- An indexed operand of a class without indirection (R107(b)). -/
theorem takeIdxDirect_reads (n : Nat) : Reads (n + 3) takeIdxDirect := by
  refine Reads_cons rfl fun xb => ?_
  cases hs : xbIndirect xb with
  | true =>
    simp only [takeIdxDirect, hs, if_true]
    exact Reads_error (n + 2) _
  | false =>
    simp only [takeIdxDirect, hs, Bool.false_eq_true, if_false]
    exact takeIdx_cons_reads n xb

@[simp] theorem takeDir_reads (n : Nat) : Reads (n + 1) takeDir := Reads_map Mem.dir (takeByte_reads n)

@[simp] theorem takeExt_reads (n : Nat) : Reads (n + 2) takeExt := Reads_map Mem.ext (takeWord_reads n)

@[simp] theorem takeMemIdx_reads (n : Nat) : Reads (n + 3) takeMemIdx := Reads_map Mem.idx (takeIdx_reads n)

@[simp] theorem takeMemIdxDirect_reads (n : Nat) : Reads (n + 3) takeMemIdxDirect :=
  Reads_map Mem.idx (takeIdxDirect_reads n)

@[simp] theorem takeMemIdxShort_reads (n : Nat) : Reads (n + 1) takeMemIdxShort :=
  Reads_map Mem.idx (takeIdxShort_reads n)

@[simp] theorem takeImm8_reads (n : Nat) : Reads (n + 1) takeImm8 := Reads_map Src8.imm (takeByte_reads n)

@[simp] theorem takeImm16_reads (n : Nat) : Reads (n + 2) takeImm16 := Reads_map Src16.imm (takeWord_reads n)

@[simp] theorem takeSrc8_reads {n : Nat} {t : Take Mem} (h : Reads n t) : Reads n (takeSrc8 t) := Reads_map Src8.mem h

@[simp] theorem takeSrc16_reads {n : Nat} {t : Take Mem} (h : Reads n t) : Reads n (takeSrc16 t) := Reads_map Src16.mem h

/-! ## Formats (R91) -/

@[simp] theorem fInh_reads (n : Nat) (i : Instr) : Reads n (fInh i) := Reads_ok n i

@[simp] theorem fByte_reads (n : Nat) (f : Byte → Instr) : Reads (n + 1) (fByte f) := Reads_map f (takeByte_reads n)

@[simp] theorem fWord_reads (n : Nat) (f : Word → Instr) : Reads (n + 2) (fWord f) := Reads_map f (takeWord_reads n)

@[simp] theorem fMem_reads {n : Nat} {t : Take Mem} (h : Reads n t) (f : Mem → Instr) : Reads n (fMem t f) :=
  Reads_map f h

@[simp] theorem fLea_reads (n : Nat) (f : Idx → Instr) : Reads (n + 3) (fLea f) := Reads_map f (takeIdxDirect_reads n)

@[simp] theorem fBitMem_reads {n : Nat} {t : Take Mem} (h : Reads n t) (f : Mem → Byte → Instr) :
    Reads (n + 1) (fBitMem t f) := Reads_bind h fun m => Reads_map (f m) (takeByte_reads 0)

@[simp] theorem fBitBranch_reads {n : Nat} {t : Take Mem} (h : Reads n t) (f : Mem → Byte → Byte → Instr) :
    Reads (n + 2) (fBitBranch t f) :=
  Reads_bind h fun m => Reads_bind (takeByte_reads 0) fun mm => Reads_map (f m mm) (takeByte_reads 0)

/-- In a move either operand takes two bytes at most (R91, R193). -/
@[simp] theorem fMoveSrcFirst_reads {α : Type} {tSrc : Take α} {tDst : Take Mem} (hs : Reads 2 tSrc) (hd : Reads 2 tDst)
    (f : α → Mem → Instr) : Reads 4 (fMoveSrcFirst tSrc tDst f) :=
  Reads_bind hs fun src => Reads_map (f src) hd

@[simp] theorem fMoveDstFirst_reads {α : Type} {tSrc : Take α} (hs : Reads 2 tSrc) (f : α → Mem → Instr) :
    Reads 4 (fMoveDstFirst tSrc f) :=
  Reads_bind (takeMemIdxShort_reads 1) fun dst => Reads_map (fun src => f src dst) hs

/-- `eb` alone (R110). -/
@[simp] theorem fXfer_reads (n : Nat) : Reads (n + 1) fXfer := by
  refine Reads_cons rfl fun eb => ?_
  simp only [fXfer]
  split
  · split
    · exact Reads_error n _
    · exact Reads_ok n _
  · exact Reads_error n _

/-- `lb` and the low byte of the offset (R115). -/
@[simp] theorem fLoop_reads (n : Nat) : Reads (n + 2) fLoop := by
  refine Reads_cons rfl fun lb => ?_
  simp only [fLoop]
  split
  next f c _ _ =>
    split
    · exact Reads_error (n + 1) _
    · exact Reads_map (fun rr => f c (lb.extractLsb' 4 1 ++ rr)) (takeByte_reads n)
  next => exact Reads_error (n + 1) _

/-! ## The opcode maps (R120, R121) -/

/-- Every row of the map reads `n` bytes after the opcode at most. -/
def PageReads (n : Nat) (page : List OpRow) : Prop := ∀ row ∈ page, Reads n row.2

@[simp] theorem PageReads_nil (n : Nat) : PageReads n [] := List.forall_mem_nil _

@[simp] theorem PageReads_cons (n o : Nat) (f : Take Instr) (p : List OpRow) :
    PageReads n ((o, f) :: p) ↔ Reads n f ∧ PageReads n p := List.forall_mem_cons

@[simp] theorem PageReads_append (n : Nat) (p q : List OpRow) :
    PageReads n (p ++ q) ↔ PageReads n p ∧ PageReads n q := List.forall_mem_append

@[simp] theorem rows8_reads (n o : Nat) (f : Src8 → Instr) : PageReads (n + 3) (rows8 o f) := by simp [rows8]

@[simp] theorem rows16_reads (n o : Nat) (f : Src16 → Instr) : PageReads (n + 3) (rows16 o f) := by simp [rows16]

@[simp] theorem rowsStore_reads (n o : Nat) (f : Mem → Instr) : PageReads (n + 3) (rowsStore o f) := by simp [rowsStore]

@[simp] theorem rowsRmw_reads (n o : Nat) (f : Mem → Instr) (a b : Instr) : PageReads (n + 3) (rowsRmw o f a b) := by
  simp [rowsRmw]

/-- After an opcode of page 1 five bytes at most: BRSET and BRCLR with a 16-bit offset have the most (R390). -/
theorem page1_reads : PageReads 5 page1 := by
  unfold page1
  simp

/-- After an opcode of page 2 four bytes at most: the moves have the most (R193). -/
theorem page2_reads : PageReads 4 page2 := by
  unfold page2
  simp

/-! ## The decoder -/

/-- Naming the opcode bytes in an error leaves what was read as it is. -/
theorem underOpcode_ok_iff (op : List Byte) (r : Except DecodeError (Instr × List Byte)) (p : Instr × List Byte) :
    underOpcode op r = .ok p ↔ r = .ok p := by
  match r with
  | .ok q => exact Iff.rfl
  | .error .truncated => exact ⟨nofun, nofun⟩
  | .error (.illegal bytes) => exact ⟨nofun, nofun⟩

theorem decodeOn_reads {n : Nat} {page : List OpRow} (h : PageReads n page) (shown : List Byte) (op : Byte) :
    Reads n (decodeOn page shown op) := by
  intro bs i rest hd
  unfold decodeOn at hd ⊢
  split at hd
  next f hf =>
    obtain ⟨l₁, l₂, hpage, -⟩ := List.lookup_eq_some_iff.1 hf
    have hrow : (op.toNat, f) ∈ page := hpage ▸ by simp
    obtain ⟨used, hbs, hlen, hmore⟩ := h _ hrow bs i rest ((underOpcode_ok_iff _ _ _).1 hd)
    exact ⟨used, hbs, hlen, fun more => (underOpcode_ok_iff _ _ _).2 (hmore more)⟩
  next => cases hd

/-- An instruction is six bytes long at most, and the bytes after it do not matter (R79, R91). -/
theorem decode_reads : Reads 6 decode := by
  refine Reads_cons rfl fun op => ?_
  by_cases h18 : op = 0x18
  · subst h18
    exact Reads_cons rfl fun op2 => decodeOn_reads page2_reads _ op2
  · simp only [decode, h18, if_false]
    exact decodeOn_reads page1_reads _ op

end Sys2Proof

namespace Sys2Proof.Machine

/-! ## The step -/

/-- Where the bytes at PC decode to an instruction with nothing left over, it is fetched, whatever bytes follow (R79, R90). -/
theorem fetchInstr_code (s : State) (bytes : List Byte) (i : Instr) (hd : decode bytes = .ok (i, []))
    (hc : s.CodeAtPc bytes) : s.fetchInstr = .run i { s with pc := s.pc + BitVec.ofNat 16 bytes.length } := by
  obtain ⟨used, hbytes, hlen, hmore⟩ := decode_reads bytes i [] hd
  rw [List.append_nil] at hbytes
  subst hbytes
  obtain ⟨more, e, hfetch, -⟩ := fetchFrom_code s bytes maxLength 0 hlen fun j hj => by
    obtain ⟨hplain, hstale, hbyte⟩ := hc j hj
    rw [Nat.zero_add, fetchByte_plain s j hplain hstale, hbyte]
  have hadv : s.advance bytes.length = { s with pc := s.pc + BitVec.ofNat 16 bytes.length } := by
    simp only [State.advance, fetchesDevice_code s bytes hc, Bool.false_eq_true, if_false]
  unfold State.fetchInstr
  simp only [hfetch, hmore, List.length_append, Nat.add_sub_cancel, hadv]

/-- Settles O5: a quiet boundary fetches, and what it fetches is the instruction at PC. -/
theorem stepRunsDecoded : Obligations.StepRunsDecoded := by
  intro s bytes i hq hd hc
  unfold step
  rw [boundary_quiet s hq, fetchInstr_code { s with inputs := s.inputs.tail } bytes i hd hc]

/-! ## The state after reset -/

/-- Settles O24: each value as `State.reset` gives it; its memory lists no byte. -/
theorem resetState : Obligations.ResetState :=
  ⟨by decide, by decide, by decide, rfl, rfl, rfl, rfl, rfl, rfl, rfl, rfl, rfl, fun _ => rfl, by decide⟩

end Sys2Proof.Machine
end

section
/-! PROOFS. What every instruction and every step keep (R8, R60, R63, R78): the parameters, the canonical memory, and the
bytes noted in the queue; and that an instruction stops for no reason but an access outside what `MemMap` admits or a form
without a meaning. Each shared operation is shown once to be sound in this sense. -/

namespace Sys2Proof.Machine

/-! ## What is kept -/

/-- From `s` to `t` the parameters and the invariant are kept; the queue is refilled, or it forgets nothing it has noted. -/
structure State.Keeps (s t : State) (refill : Bool) : Prop where
  cfg : t.cfg = s.cfg
  inv : s.Inv → t.Inv
  refilled : refill = true → t.stale = []
  noted : refill = false → ∀ b ∈ s.stale, b ∈ t.stale

theorem Keeps_trans {s t u : State} {refill : Bool} (h : s.Keeps t false) (h' : t.Keeps u refill) : s.Keeps u refill :=
  ⟨h'.cfg.trans h.cfg, fun i => h'.inv (h.inv i), h'.refilled, fun hr b hb => h'.noted hr b (h.noted rfl b hb)⟩

/-- A change that touches neither memory nor what the queue has noted. -/
theorem Keeps_of_eq {s t : State} (hm : t.mem = s.mem := by simp) (hs : t.stale = s.stale := by simp)
    (hc : t.cfg = s.cfg := by simp) : s.Keeps t false :=
  ⟨hc, fun h => ⟨hm.symm ▸ h.mem, hs.symm ▸ h.stale⟩, nofun, fun _ _ hb => hs.symm ▸ hb⟩

theorem Keeps_refl (s : State) : s.Keeps s false := Keeps_of_eq

/-- A byte stored is noted at most beside what was noted before (R78). -/
theorem Keeps_store (s : State) (a : Word) (v : Byte) : s.Keeps (s.store a v) false := by
  refine ⟨rfl, Inv_store s a v, nofun, fun _ b hb => ?_⟩
  unfold State.store
  split
  · exact List.mem_insert_of_mem hb
  · exact hb

/-- A transfer of control refills the queue (R78(d)). -/
theorem Keeps_jump (s : State) (t : Word) : s.Keeps (s.jump t) true :=
  ⟨rfl, fun h => ⟨h.mem, List.nodup_nil⟩, fun _ => rfl, nofun⟩

theorem Keeps_branch (s : State) (c : Bool) (t : Word) : s.Keeps (s.branch c t) c := by
  cases c
  · exact Keeps_refl s
  · exact Keeps_jump s t

/-! ## Operations that may stop -/

/-- The fault names an access outside what `MemMap` admits (R63). -/
def State.Unadmitted (s : State) (f : Fault) : Prop :=
  ∃ a, (f = .unadmittedRead a ∧ s.admits .read a = false) ∨ (f = .unadmittedWrite a ∧ s.admits .write a = false)

theorem Unadmitted_congr {s t : State} {f : Fault} (h : t.cfg = s.cfg) (hf : t.Unadmitted f) : s.Unadmitted f := by
  obtain ⟨a, ha⟩ := hf
  rw [admits_congr s t .read a h, admits_congr s t .write a h] at ha
  exact ⟨a, ha⟩

/-- An operation run in `s`, `st` the state of what it answers: a state it answers keeps what `Keeps` says, it faults only at
an access that is not admitted, and it is refused only if `bad` says so. -/
structure State.Sound {α : Type} (s : State) (st : α → State) (refill bad : Bool) (x : Res α) : Prop where
  ok : ∀ a, x = .ok a → s.Keeps (st a) refill
  fault : ∀ f, x = .error (.fault f) → s.Unadmitted f
  refused : ∀ r, x = .error (.refused r) → bad = true

theorem Sound_ok {α : Type} {s : State} {st : α → State} {refill bad : Bool} {a : α} (h : s.Keeps (st a) refill) :
    s.Sound st refill bad (.ok a) := ⟨fun _ e => Except.ok.inj e ▸ h, nofun, nofun⟩

/-- A stop at an access that is not admitted. -/
theorem Sound_fault {α : Type} {s : State} {st : α → State} {refill bad : Bool} {f : Fault} (h : s.Unadmitted f) :
    s.Sound st refill bad (.error (.fault f)) := by
  refine ⟨nofun, fun g e => ?_, nofun⟩
  cases e
  exact h

/-- What is sound after a change that keeps all is sound before it. -/
theorem Sound_after {α : Type} {s u : State} {st : α → State} {refill bad : Bool} {x : Res α} (hk : s.Keeps u false)
    (h : u.Sound st refill bad x) : s.Sound st refill bad x :=
  ⟨fun a e => Keeps_trans hk (h.ok a e), fun f e => Unadmitted_congr hk.cfg (h.fault f e), h.refused⟩

theorem Sound_bind {α β : Type} {s : State} {st : α → State} {st' : β → State} {refill bad : Bool} {x : Res α}
    {f : α → Res β} (hx : s.Sound st false bad x) (hf : ∀ a, (st a).Sound st' refill bad (f a)) :
    s.Sound st' refill bad (x >>= f) := by
  cases x with
  | ok a => exact Sound_after (hx.ok a rfl) (hf a)
  | error e =>
    refine ⟨nofun, fun g hg => hx.fault g ?_, fun r hr => hx.refused r ?_⟩
    · rw [Except.error.inj hg]
    · rw [Except.error.inj hr]

theorem Sound_refuseIf {s : State} {refill bad b : Bool} {r : Refusal} {go : Res State} (hb : b = true → bad = true)
    (h : s.Sound id refill bad go) : s.Sound id refill bad (refuseIf b r go) := by
  cases b with
  | false => exact h
  | true => exact ⟨nofun, nofun, fun _ _ => hb rfl⟩

section
variable (s : State) {bad : Bool}

theorem read8_sound (a : Word) : s.Sound Prod.snd false bad (s.read8 a) := by
  cases ha : s.admits .read a with
  | false => exact read8_unadmitted s a ha ▸ Sound_fault ⟨a, .inl ⟨rfl, ha⟩⟩
  | true =>
    rw [State.read8, if_pos ha]
    split <;> exact Sound_ok Keeps_of_eq

theorem read16_sound (a : Word) : s.Sound Prod.snd false bad (s.read16 a) :=
  Sound_bind (read8_sound s a) fun (_, u) => Sound_bind (read8_sound u (a + 1)) fun (_, w) => Sound_ok (Keeps_refl w)

theorem write8_sound (a : Word) (v : Byte) : s.Sound id false bad (s.write8 a v) := by
  cases ha : s.admits .write a with
  | false => exact write8_unadmitted s a v ha ▸ Sound_fault ⟨a, .inr ⟨rfl, ha⟩⟩
  | true =>
    rw [State.write8, if_pos ha]
    split
    · exact Sound_ok (Keeps_refl s)
    · exact Sound_ok (Keeps_store s a v)

theorem write16_sound (a v : Word) : s.Sound id false bad (s.write16 a v) :=
  Sound_bind (write8_sound s a _) fun u => write8_sound u (a + 1) _

theorem push8_sound (v : Byte) : s.Sound id false bad (s.push8 v) :=
  Sound_after (u := { s with sp := s.sp - 1 }) Keeps_of_eq (write8_sound _ _ v)

theorem push16_sound (v : Word) : s.Sound id false bad (s.push16 v) :=
  Sound_after (u := { s with sp := s.sp - 2 }) Keeps_of_eq (write16_sound _ _ v)

theorem pull8_sound : s.Sound Prod.snd false bad s.pull8 :=
  Sound_bind (read8_sound s s.sp) fun (_, _) => Sound_ok Keeps_of_eq

theorem pull16_sound : s.Sound Prod.snd false bad s.pull16 :=
  Sound_bind (read16_sound s s.sp) fun (_, _) => Sound_ok Keeps_of_eq

theorem idxAddr_sound (i : Idx) : s.Sound Prod.snd false bad (s.idxAddr i) := by
  cases i with
  | ofs5 | acc | ofs9 | ofs16 => exact Sound_ok (Keeps_refl s)
  | auto => exact Sound_ok Keeps_of_eq
  | ind16 | indD => exact read16_sound s _

theorem ea_sound (m : Mem) : s.Sound Prod.snd false bad (s.ea m) := by
  cases m with
  | dir | ext => exact Sound_ok (Keeps_refl s)
  | idx i => exact idxAddr_sound s i

theorem opnd8_sound (op : Src8) : s.Sound Prod.snd false bad (s.opnd8 op) := by
  cases op with
  | imm => exact Sound_ok (Keeps_refl s)
  | mem m => exact Sound_bind (ea_sound s m) fun (a, u) => read8_sound u a

theorem opnd16_sound (op : Src16) : s.Sound Prod.snd false bad (s.opnd16 op) := by
  cases op with
  | imm => exact Sound_ok (Keeps_refl s)
  | mem m => exact Sound_bind (ea_sound s m) fun (a, u) => read16_sound u a

theorem call_sound (t : Word) : s.Sound id true bad (s.call t) :=
  Sound_bind (push16_sound s s.pc) fun u => Sound_ok (Keeps_jump u t)

theorem pushFrame_sound : s.Sound id false bad s.pushFrame :=
  Sound_bind (push16_sound s _) fun s1 => Sound_bind (push16_sound s1 _) fun s2 => Sound_bind (push16_sound s2 _) fun s3 =>
    Sound_after (u := { s3 with sp := s3.sp - 2 }) Keeps_of_eq
      (Sound_bind (write8_sound _ _ _) fun s4 => Sound_bind (write8_sound s4 _ _) fun s5 => push8_sound s5 _)

/-- Taking an exception, with or without a frame, refills the queue (R78(d), R448, R449). -/
theorem takeException_sound (vector : Word) (frame setX : Bool) :
    s.Sound id true bad (s.takeException vector frame setX) := by
  rw [takeException_eq]
  refine Sound_bind (st := id) ?_ fun u => Sound_after (u := { u with ccr := entryCcr u.ccr setX }) Keeps_of_eq
    (Sound_bind (read16_sound _ vector) fun (t, w) =>
      Sound_ok (Keeps_trans Keeps_of_eq (Keeps_jump { w with stopped := false } t)))
  cases frame
  · exact Sound_ok (Keeps_refl s)
  · exact pushFrame_sound s

theorem returnFromException_sound : s.Sound id true bad s.returnFromException :=
  Sound_bind (read8_sound s _) fun (v, s1) => Sound_after (u := s1.loadCcr v) Keeps_of_eq
    (Sound_bind (read8_sound _ _) fun (vb, s2) => Sound_bind (read8_sound s2 _) fun (va, s3) =>
      Sound_bind (read16_sound s3 _) fun (vx, s4) => Sound_bind (read16_sound s4 _) fun (t, s5) =>
        Sound_bind (read16_sound s5 _) fun (vy, s6) => Sound_ok (Keeps_trans Keeps_of_eq
          (Keeps_jump { s6 with a := va, b := vb, x := vx, y := vy, sp := s.sp + 9 } t)))

/-- A reset refills the queue (R78(d), R480). -/
theorem resetEvent_sound : s.Sound id true bad s.resetEvent :=
  Sound_after (u := { s with
      a := s.cfg.resetRegs.a, b := s.cfg.resetRegs.b, x := s.cfg.resetRegs.x, y := s.cfg.resetRegs.y,
      sp := s.cfg.resetRegs.sp, ccr := s.cfg.resetRegs.ccr, stopped := false }) Keeps_of_eq
    (Sound_bind (read16_sound _ s.cfg.resetVector) fun (t, w) => Sound_ok (Keeps_jump w t))

end

/-! ## Shared meanings -/

/-- What the outcome of an instruction says of the state it ran in: as `State.Sound`, of outcomes. -/
structure State.Answers (s : State) (refill bad : Bool) (o : Out) : Prop where
  next : ∀ t, o = .next t → s.Keeps t refill
  fault : ∀ f, o = .fault f → s.Unadmitted f
  refused : ∀ r, o = .refused r → bad = true

theorem Answers_next {s t : State} {refill bad : Bool} (h : s.Keeps t refill) : s.Answers refill bad (.next t) :=
  ⟨fun _ e => Host.Outcome.next.inj e ▸ h, nofun, nofun⟩

theorem Answers_outcome {s : State} {refill bad : Bool} {r : Res State} (h : s.Sound id refill bad r) :
    s.Answers refill bad (outcome r) := by
  match r with
  | .ok t => exact Answers_next (h.ok t rfl)
  | .error (.fault f) => exact ⟨nofun, fun g e => h.fault g (by cases e; rfl), nofun⟩
  | .error (.refused r) => exact ⟨nofun, nofun, fun _ _ => h.refused r rfl⟩

section
variable {s : State} {bad : Bool}

theorem load8_answers {r : Reg8} {op : Src8} : s.Answers false bad (load8 r op s) :=
  Answers_outcome (Sound_bind (opnd8_sound s op) fun _ => Sound_ok Keeps_of_eq)

theorem load16_answers {r : Reg16} {op : Src16} (hb : overlaps (src16Auto op) (reg16Auto r) = true → bad = true) :
    s.Answers false bad (load16 r op s) :=
  Answers_outcome (Sound_refuseIf hb (Sound_bind (opnd16_sound s op) fun _ => Sound_ok Keeps_of_eq))

theorem store8_answers {r : Reg8} {m : Mem} : s.Answers false bad (store8 r m s) :=
  Answers_outcome (Sound_bind (ea_sound s m) fun (a, u) => Sound_bind (write8_sound u a _) fun _ => Sound_ok Keeps_of_eq)

theorem store16_answers {r : Reg16} {m : Mem} (hb : overlaps (memAuto m) (reg16Auto r) = true → bad = true) :
    s.Answers false bad (store16 r m s) :=
  Answers_outcome (Sound_refuseIf hb (Sound_bind (ea_sound s m) fun (a, u) =>
    Sound_bind (write16_sound u a _) fun _ => Sound_ok Keeps_of_eq))

theorem lea_answers {r : Reg16} {i : Idx} (hb : overlaps (idxAuto i) (reg16Auto r) = true → bad = true) :
    s.Answers false bad (lea r i s) :=
  Answers_outcome (Sound_refuseIf hb (Sound_bind (idxAddr_sound s i) fun _ => Sound_ok Keeps_of_eq))

theorem movb_answers {src : Src8} {dst : Mem} (hp : (src8OnPc src || memOnPc dst) = true → bad = true)
    (ho : overlaps (src8Auto src) (memAuto dst) = true → bad = true) : s.Answers false bad (execMovb src dst s) :=
  Answers_outcome (Sound_refuseIf hp (Sound_refuseIf ho (Sound_bind (opnd8_sound s src) fun (v, u) =>
    Sound_bind (ea_sound u dst) fun (a, w) => write8_sound w a v)))

theorem movw_answers {src : Src16} {dst : Mem} (hp : (src16OnPc src || memOnPc dst) = true → bad = true)
    (ho : overlaps (src16Auto src) (memAuto dst) = true → bad = true) : s.Answers false bad (execMovw src dst s) :=
  Answers_outcome (Sound_refuseIf hp (Sound_refuseIf ho (Sound_bind (opnd16_sound s src) fun (v, u) =>
    Sound_bind (ea_sound u dst) fun (a, w) => write16_sound w a v)))

theorem pushByte_answers {v : Byte} : s.Answers false bad (pushByte v s) := Answers_outcome (push8_sound s v)

theorem pushWord_answers {v : Word} : s.Answers false bad (pushWord v s) := Answers_outcome (push16_sound s v)

theorem pullInto8_answers {r : Reg8} : s.Answers false bad (pullInto8 r s) :=
  Answers_outcome (Sound_bind (pull8_sound s) fun _ => Sound_ok Keeps_of_eq)

theorem pullInto16_answers {r : Reg16} : s.Answers false bad (pullInto16 r s) :=
  Answers_outcome (Sound_bind (pull16_sound s) fun _ => Sound_ok Keeps_of_eq)

theorem pulc_answers : s.Answers false bad (execPulc s) :=
  Answers_outcome (Sound_bind (pull8_sound s) fun _ => Sound_ok Keeps_of_eq)

theorem Keeps_addInto (r : Reg8) (m : Byte) (c : Bool) : s.Keeps (s.addInto r m c) false :=
  Keeps_of_eq (by simp [State.addInto]) (by simp [State.addInto]) (by simp [State.addInto])

theorem Keeps_subInto (r : Reg8) (m : Byte) (c : Bool) : s.Keeps (s.subInto r m c) false :=
  Keeps_of_eq (by simp [State.subInto]) (by simp [State.subInto]) (by simp [State.subInto])

theorem Keeps_shiftD (q : Alu 16) : s.Keeps (s.shiftD q) false :=
  Keeps_of_eq (by simp [State.shiftD]) (by simp [State.shiftD]) (by simp [State.shiftD])

theorem Keeps_count16 (r : Reg16) (v : Word) : s.Keeps (s.count16 r v) false :=
  Keeps_of_eq (by simp [State.count16]) (by simp [State.count16]) (by simp [State.count16])

theorem addMem8_answers {r : Reg8} {c : Bool} {op : Src8} : s.Answers false bad (addMem8 r c op s) :=
  Answers_outcome (Sound_bind (opnd8_sound s op) fun (m, _) => Sound_ok (Keeps_addInto r m _))

theorem subMem8_answers {r : Reg8} {c : Bool} {op : Src8} : s.Answers false bad (subMem8 r c op s) :=
  Answers_outcome (Sound_bind (opnd8_sound s op) fun (m, _) => Sound_ok (Keeps_subInto r m _))

theorem cmpMem8_answers {r : Reg8} {op : Src8} : s.Answers false bad (cmpMem8 r op s) :=
  Answers_outcome (Sound_bind (opnd8_sound s op) fun _ => Sound_ok Keeps_of_eq)

theorem cmpMem16_answers {r : Reg16} {op : Src16} (hb : overlaps (src16Auto op) (reg16Auto r) = true → bad = true) :
    s.Answers false bad (cmpMem16 r op s) :=
  Answers_outcome (Sound_refuseIf hb (Sound_bind (opnd16_sound s op) fun _ => Sound_ok Keeps_of_eq))

theorem addd_answers {op : Src16} : s.Answers false bad (execAddd op s) :=
  Answers_outcome (Sound_bind (opnd16_sound s op) fun (m, u) => Sound_ok (Keeps_shiftD (add16 u.d m)))

theorem subd_answers {op : Src16} : s.Answers false bad (execSubd op s) :=
  Answers_outcome (Sound_bind (opnd16_sound s op) fun (m, u) => Sound_ok (Keeps_shiftD (sub16 u.d m)))

theorem logicMem8_answers {f : Byte → Byte → Byte} {r : Reg8} {op : Src8} : s.Answers false bad (logicMem8 f r op s) :=
  Answers_outcome (Sound_bind (opnd8_sound s op) fun _ => Sound_ok Keeps_of_eq)

theorem bitTest8_answers {r : Reg8} {op : Src8} : s.Answers false bad (bitTest8 r op s) :=
  Answers_outcome (Sound_bind (opnd8_sound s op) fun _ => Sound_ok Keeps_of_eq)

theorem Keeps_set8 (r : Reg8) (v : Byte) : s.Keeps (s.set8 r v) false := Keeps_of_eq

/-- A one-operand operation (R245) that writes flags only. -/
def KeepsOp (f : State → Byte → Byte × State) : Prop := ∀ (s : State) (v : Byte), s.Keeps (f s v).2 false

theorem Keeps_putNZV (n z v : Bool) : s.Keeps (s.putNZV n z v) false := Keeps_of_eq

theorem Keeps_putNZVC (n z v c : Bool) : s.Keeps (s.putNZVC n z v c) false := Keeps_of_eq

theorem Keeps_aluFlags {w : Nat} (q : Alu w) : s.Keeps (s.aluFlags q) false := Keeps_of_eq

theorem Keeps_logicFlags {w : Nat} (r : BitVec w) : s.Keeps (s.logicFlags r) false := Keeps_of_eq

theorem KeepsOp_dec : KeepsOp decOp := fun _ _ => Keeps_putNZV _ _ _
theorem KeepsOp_inc : KeepsOp incOp := fun _ _ => Keeps_putNZV _ _ _
theorem KeepsOp_neg : KeepsOp negOp := fun _ _ => Keeps_putNZVC _ _ _ _
theorem KeepsOp_com : KeepsOp comOp := fun _ _ => Keeps_putNZVC _ _ _ _
theorem KeepsOp_asl : KeepsOp aslOp := fun _ _ => Keeps_aluFlags _
theorem KeepsOp_asr : KeepsOp asrOp := fun _ _ => Keeps_aluFlags _
theorem KeepsOp_lsr : KeepsOp lsrOp := fun _ _ => Keeps_aluFlags _
theorem KeepsOp_rol : KeepsOp rolOp := fun _ _ => Keeps_aluFlags _
theorem KeepsOp_ror : KeepsOp rorOp := fun _ _ => Keeps_aluFlags _
theorem KeepsOp_bit (g : Byte → Byte) : KeepsOp (bitOp g) := fun _ _ => Keeps_logicFlags _

theorem modify8_sound {f : State → Byte → Byte × State} (hf : KeepsOp f) (m : Mem) :
    s.Sound id false bad (modify8 f m s) :=
  Sound_bind (ea_sound s m) fun (a, u) => Sound_bind (read8_sound u a) fun (v, w) =>
    Sound_after (hf w v) (write8_sound (f w v).2 a (f w v).1)

theorem modify8_answers {f : State → Byte → Byte × State} {m : Mem} (hf : KeepsOp f) :
    s.Answers false bad (outcome (modify8 f m s)) := Answers_outcome (modify8_sound hf m)

theorem modifyBits_answers {g : Byte → Byte} {m : Mem} (hb : memOnPc m = true → bad = true) :
    s.Answers false bad (modifyBits g m s) := Answers_outcome (Sound_refuseIf hb (modify8_sound (KeepsOp_bit g) m))

theorem modifyAcc_answers {f : State → Byte → Byte × State} {r : Reg8} (hf : KeepsOp f) :
    s.Answers false bad (.next (modifyAcc f r s)) := Answers_next (Keeps_trans (hf s (s.get8 r)) (Keeps_set8 r _))

theorem clr_answers {m : Mem} : s.Answers false bad (execClr m s) :=
  Answers_outcome (Sound_bind (ea_sound s m) fun (a, u) => Sound_bind (write8_sound u a _) fun _ => Sound_ok Keeps_of_eq)

theorem tst_answers {m : Mem} : s.Answers false bad (execTst m s) :=
  Answers_outcome (Sound_bind (ea_sound s m) fun (a, u) => Sound_bind (read8_sound u a) fun _ => Sound_ok Keeps_of_eq)

theorem daa_answers : s.Answers false bad (execDaa s) := by
  rw [execDaa_eq]
  exact Answers_next Keeps_of_eq

theorem mul_answers : s.Answers false bad (execMul s) :=
  Answers_next (Keeps_of_eq rfl rfl rfl)

theorem idiv_answers : s.Answers false bad (execIdiv s) := by
  unfold execIdiv
  split <;> exact Answers_next Keeps_of_eq

theorem fdiv_answers : s.Answers false bad (execFdiv s) := by
  unfold execFdiv
  split <;> exact Answers_next Keeps_of_eq

theorem Keeps_setReg (s : State) (r : Reg) (v : Word) : s.Keeps (s.setReg r v) false := by
  cases r <;> exact Keeps_of_eq rfl rfl rfl

theorem Keeps_transfer (r1 r2 : Reg) : s.Keeps (s.transfer r1 r2) false := by
  obtain ⟨v, e⟩ := transfer_eq_setReg s r1 r2
  exact e ▸ Keeps_setReg s r2 v

theorem Keeps_exchange (r1 r2 : Reg) : s.Keeps (s.exchange r1 r2) false := by
  have hdraw : ∀ u, u = s ∨ u = s.drawByte.2 → s.Keeps u false := by
    rintro u (rfl | rfl) <;> exact Keeps_of_eq
  obtain ⟨v, e⟩ | ⟨u, v, w, hu, e | e⟩ := exchange_cases s r1 r2
  · exact e ▸ Keeps_of_eq
  · exact e ▸ Keeps_trans (hdraw u hu) (Keeps_trans (Keeps_setReg u r2 v) (Keeps_setReg _ r1 w))
  · exact e ▸ Keeps_trans (hdraw u hu) (Keeps_trans (Keeps_setReg u r1 w) (Keeps_setReg _ r2 v))

/-! ## Shared meanings: control flow -/

theorem branchIf_answers {c refill : Bool} {rr : Byte} (h : c = refill) : s.Answers refill bad (branchIf c rr s) :=
  Answers_next (h ▸ Keeps_branch s c _)

/-- A branch on bits as an operand and a branch (R390). -/
theorem branchOnBits_eq (test : Byte → Bool) (m : Mem) (rr : Byte) (s : State) :
    branchOnBits test m rr s = outcome (refuseIf (memOnPc m) .pcRelativeTrailing
      (s.opnd8 (.mem m) >>= fun p => .ok (p.2.branch (test p.1) (p.2.relTarget rr)))) := by
  simp only [branchOnBits, State.opnd8, bind_assoc]

/-- A branch on bits refills the queue if the test holds of its operand. -/
theorem branchOnBits_answers {test : Byte → Bool} {m : Mem} {rr : Byte} {refill : Bool}
    (ht : ∀ v u, s.opnd8 (.mem m) = .ok (v, u) → refill = test v) (hb : memOnPc m = true → bad = true) :
    s.Answers refill bad (branchOnBits test m rr s) := by
  rw [branchOnBits_eq]
  refine Answers_outcome (Sound_refuseIf hb ?_)
  have hop := opnd8_sound (bad := bad) s (.mem m)
  cases h : s.opnd8 (.mem m) with
  | ok p =>
    exact ht p.1 p.2 h ▸ Sound_ok (Keeps_trans (hop.ok p h) (Keeps_branch p.2 _ _))
  | error e =>
    rw [h] at hop
    refine ⟨nofun, fun f e => hop.fault f ?_, fun r e => hop.refused r ?_⟩
    · rw [Except.error.inj e]
    · rw [Except.error.inj e]

theorem Keeps_cntrAdd (s : State) (c : Cntr) (k : Int) : s.Keeps (s.cntrAdd c k) false := by
  cases c <;> exact Keeps_of_eq rfl rfl rfl

theorem loopOp_answers {k : Int} {z refill : Bool} {c : Cntr} {rel : BitVec 9}
    (h : ((s.cntrAdd c k).cntrZero c == z) = refill) : s.Answers refill bad (loopOp k z c rel s) :=
  Answers_next (h ▸ Keeps_trans (Keeps_cntrAdd s c k) (Keeps_branch _ _ _))

theorem jmp_answers {m : Mem} : s.Answers true bad (execJmp m s) :=
  Answers_outcome (Sound_bind (ea_sound s m) fun (a, u) => Sound_ok (Keeps_jump u a))

theorem jsr_answers {m : Mem} (hb : overlaps (memAuto m) (some .sp) = true → bad = true) :
    s.Answers true bad (execJsr m s) :=
  Answers_outcome (Sound_refuseIf hb (Sound_bind (ea_sound s m) fun (a, u) => call_sound u a))

theorem rts_answers : s.Answers true bad (execRts s) :=
  Answers_outcome (Sound_bind (pull16_sound s) fun (a, u) => Sound_ok (Keeps_jump u a))

theorem stop_answers : s.Answers false bad (execStop s) := by
  unfold execStop
  split
  · exact Answers_next (Keeps_refl s)
  · exact Answers_outcome (Sound_bind (pushFrame_sound s) fun _ => Sound_ok Keeps_of_eq)

end

/-! ## Conditions and counters -/

/-- The counter is zero exactly if its value is (R400). -/
theorem cntrZero_eq (s : State) (c : Cntr) : s.cntrZero c = (s.cntrVal c == 0) := by
  rw [Bool.eq_iff_iff]
  cases c <;> simp [State.cntrZero, State.cntrVal, BitVec.toNat_eq]

/-- Stepping a counter adds to its value, modulo its width (R400). -/
theorem cntrVal_cntrAdd (s : State) (c : Cntr) (k : Nat) :
    (s.cntrAdd c k).cntrVal c = (s.cntrVal c + k) % cntrModulus c := by
  cases c <;> simp [State.cntrAdd, State.cntrVal, cntrModulus, BitVec.ofInt_natCast, d_def]

theorem cntrVal_lt (s : State) (c : Cntr) : s.cntrVal c < cntrModulus c := by
  cases c <;> exact BitVec.isLt _

/-- A counter is modulo 2^8 or 2^16, so a step down is a step up by its modulus less 1 (R400). -/
theorem cntrAdd_neg_one (s : State) (c : Cntr) : s.cntrAdd c (-1) = s.cntrAdd c ((cntrModulus c - 1 : Nat) : Int) := by
  cases c <;> rfl

theorem cntrModulus_cases (c : Cntr) : cntrModulus c = 256 ∨ cntrModulus c = 65536 := by cases c <;> decide

/-- Counting down ends at the counter 1 (R400). -/
theorem cntrZero_down (s : State) (c : Cntr) : (s.cntrAdd c (-1)).cntrZero c = (s.cntrVal c == 1) := by
  have hlt := cntrVal_lt s c
  rw [cntrAdd_neg_one, cntrZero_eq, cntrVal_cntrAdd, Bool.eq_iff_iff, beq_iff_eq, beq_iff_eq]
  rcases cntrModulus_cases c with hm | hm <;> rw [hm] at hlt ⊢ <;> omega

/-- Counting up ends at the top of the counter (R400). -/
theorem cntrZero_up (s : State) (c : Cntr) : (s.cntrAdd c 1).cntrZero c = (s.cntrVal c + 1 == cntrModulus c) := by
  have hlt := cntrVal_lt s c
  rw [cntrZero_eq, show (1 : Int) = ((1 : Nat) : Int) from rfl, cntrVal_cntrAdd, Bool.eq_iff_iff, beq_iff_eq, beq_iff_eq]
  rcases cntrModulus_cases c with hm | hm <;> rw [hm] at hlt ⊢ <;> omega

/-- All selected bits of a byte are set (R392): the form of the model and that of the rule. -/
theorem selected_set (v mm : Byte) : (~~~v &&& mm == 0) = (v &&& mm == mm) := by
  have hbit : ∀ p q : Bool, (!p && q) = false ↔ (p && q) = q := by decide
  rw [Bool.eq_iff_iff, beq_iff_eq, beq_iff_eq, BitVec.eq_of_getLsbD_eq_iff, BitVec.eq_of_getLsbD_eq_iff]
  refine forall₂_congr fun i hi => ?_
  simpa [hi] using hbit (v.getLsbD i) (mm.getLsbD i)

/-- The signed conditions: N = V is not N xor V (R372). -/
theorem beq_eq_not_xor (p q : Bool) : (p == q) = !(p ^^ q) := by cases p <;> cases q <;> rfl

/-- D is adjusted by no auto form, so no operand of an instruction on D overlaps it (R152). -/
@[simp] theorem overlaps_none (auto : Option AutoReg) : overlaps auto none = false := by cases auto <;> rfl

/-! ## All instructions -/

/-- Every instruction in every state: it keeps the parameters and the invariant, it refills the queue exactly if it transfers
control, it faults only at an access that is not admitted, and only a form of R147 or R152 is refused. -/
theorem exec_answers (i : Instr) (s : State) :
    s.Answers (s.transfers i) (autoOverlap i || pcTrailing i) (exec i s) := by
  cases i with
  | adca | adcb | adda | addb => exact addMem8_answers
  | suba | sbca | subb | sbcb => exact subMem8_answers
  | cmpa | cmpb => exact cmpMem8_answers
  | cpd => exact cmpMem16_answers (by simp [reg16Auto])
  | cpx | cpy | cps => exact cmpMem16_answers (Bool.or_eq_true_iff.2 ∘ .inl)
  | subd => exact subd_answers
  | addd => exact addd_answers
  | anda | andb | eora | eorb | oraa | orab => exact logicMem8_answers
  | bita | bitb => exact bitTest8_answers
  | ldaa | ldab => exact load8_answers
  | ldd => exact load16_answers (by simp [reg16Auto])
  | ldx | ldy | lds => exact load16_answers (Bool.or_eq_true_iff.2 ∘ .inl)
  | staa | stab => exact store8_answers
  | std => exact store16_answers (by simp [reg16Auto])
  | stx | sty | sts => exact store16_answers (Bool.or_eq_true_iff.2 ∘ .inl)
  | leax | leay | leas => exact lea_answers (Bool.or_eq_true_iff.2 ∘ .inl)
  | abx => exact lea_answers (i := .acc .x .b) nofun
  | aby => exact lea_answers (i := .acc .y .b) nofun
  | des => exact lea_answers (i := .ofs5 .sp (-1)) nofun
  | ins => exact lea_answers (i := .ofs5 .sp 1) nofun
  | movb => exact movb_answers (Bool.or_eq_true_iff.2 ∘ .inr) (Bool.or_eq_true_iff.2 ∘ .inl)
  | movw => exact movw_answers (Bool.or_eq_true_iff.2 ∘ .inr) (Bool.or_eq_true_iff.2 ∘ .inl)
  | psha | pshb | pshc => exact pushByte_answers
  | pshd | pshx | pshy => exact pushWord_answers
  | pula | pulb => exact pullInto8_answers
  | puld | pulx | puly => exact pullInto16_answers
  | pulc => exact pulc_answers
  | neg => exact modify8_answers KeepsOp_neg
  | com => exact modify8_answers KeepsOp_com
  | inc => exact modify8_answers KeepsOp_inc
  | dec => exact modify8_answers KeepsOp_dec
  | lsr => exact modify8_answers KeepsOp_lsr
  | rol => exact modify8_answers KeepsOp_rol
  | ror => exact modify8_answers KeepsOp_ror
  | asr => exact modify8_answers KeepsOp_asr
  | asl | lsl => exact modify8_answers KeepsOp_asl
  | bclr | bset => exact modifyBits_answers (Bool.or_eq_true_iff.2 ∘ .inr)
  | clr => exact clr_answers
  | tst => exact tst_answers
  | nega | negb => exact modifyAcc_answers KeepsOp_neg
  | coma | comb => exact modifyAcc_answers KeepsOp_com
  | inca | incb => exact modifyAcc_answers KeepsOp_inc
  | deca | decb => exact modifyAcc_answers KeepsOp_dec
  | lsra | lsrb => exact modifyAcc_answers KeepsOp_lsr
  | rola | rolb => exact modifyAcc_answers KeepsOp_rol
  | rora | rorb => exact modifyAcc_answers KeepsOp_ror
  | asra | asrb => exact modifyAcc_answers KeepsOp_asr
  | asla | aslb | lsla | lslb => exact modifyAcc_answers KeepsOp_asl
  | asld | lsld | lsrd => exact Answers_next (Keeps_shiftD _)
  | clra | clrb => exact Answers_next (Keeps_trans (Keeps_set8 _ _) (Keeps_putNZVC _ _ _ _))
  | tsta | tstb => exact Answers_next (Keeps_putNZVC _ _ _ _)
  | aba => exact Answers_next (Keeps_addInto _ _ _)
  | sba => exact Answers_next (Keeps_subInto _ _ _)
  | cba => exact Answers_next (Keeps_aluFlags _)
  | dex | dey | inx | iny => exact Answers_next (Keeps_count16 _ _)
  | tab | tba => exact Answers_next (Keeps_trans (Keeps_set8 _ _) (Keeps_logicFlags _))
  | daa => exact daa_answers
  | mul => exact mul_answers
  | idiv => exact idiv_answers
  | fdiv => exact fdiv_answers
  | tfr | tap | tpa | tsx | tsy | txs | tys => exact Answers_next (Keeps_transfer _ _)
  | exg | xgdx | xgdy => exact Answers_next (Keeps_exchange _ _)
  | andcc | orcc | clc | cli | clv | sec | sei | sev => exact Answers_next (Keeps_of_eq rfl rfl rfl)
  | bra | bcc | bcs | bhs | blo | bne | beq | bvc | bvs | bpl | bmi => exact branchIf_answers rfl
  | bls => exact branchIf_answers rfl
  | bhi => exact branchIf_answers (Bool.not_or _ _).symm
  | bge => exact branchIf_answers (beq_eq_not_xor _ _)
  | blt => exact branchIf_answers rfl
  | bgt => exact branchIf_answers (by simp [State.transfers, beq_eq_not_xor])
  | ble => exact branchIf_answers rfl
  | brclr m mm rr =>
    exact branchOnBits_answers (test := fun v => v &&& mm == 0) (fun v u h => by simp only [State.transfers, h])
      (Bool.or_eq_true_iff.2 ∘ .inr)
  | brset m mm rr =>
    exact branchOnBits_answers (test := fun v => ~~~v &&& mm == 0)
      (fun v u h => by simp only [State.transfers, h, selected_set])
      (Bool.or_eq_true_iff.2 ∘ .inr)
  | jmp => exact jmp_answers
  | jsr => exact jsr_answers (Bool.or_eq_true_iff.2 ∘ .inl)
  | bsr => exact Answers_outcome (call_sound s _)
  | rts => exact rts_answers
  | dbeq c => exact loopOp_answers (by simp [State.transfers, cntrZero_down])
  | dbne c => exact loopOp_answers (by simp [State.transfers, cntrZero_down, bne])
  | ibeq c => exact loopOp_answers (by simp [State.transfers, cntrZero_up])
  | ibne c => exact loopOp_answers (by simp [State.transfers, cntrZero_up, bne])
  | tbeq c => exact Answers_next (cntrZero_eq s c ▸ Keeps_branch s _ _)
  | tbne c => exact Answers_next (by rw [cntrZero_eq]; exact Keeps_branch s _ _)
  | nop => exact Answers_next (Keeps_refl s)
  | swi => exact Answers_outcome (takeException_sound s _ true false)
  | rti => exact Answers_outcome (returnFromException_sound s)
  | stop => exact stop_answers

/-- Settles O21: where all memory is plain no access is unadmitted, so an instruction that is not refused completes. -/
theorem everyFormCompletes : Obligations.EveryFormCompletes := by
  intro i s hplain ho hp
  have ha := exec_answers i s
  match he : exec i s with
  | .next t => exact ⟨t, rfl⟩
  | .fault f =>
    obtain ⟨a, ⟨-, h⟩ | ⟨-, h⟩⟩ := ha.fault f he
    · exact absurd ((hplain a .read).1.symm.trans h) nofun
    · exact absurd ((hplain a .write).1.symm.trans h) nofun
  | .refused r => simpa [ho, hp] using ha.refused r he

/-! ## The step -/

/-- A fetch runs an instruction in the state after it (R35), or it stops. -/
theorem fetchInstr_cases (s : State) :
    (∃ i n, s.fetchInstr = .run i (s.advance n)) ∨ ∃ e, s.fetchInstr = .done (.error e) := by
  unfold State.fetchInstr
  dsimp only
  split
  · exact .inl ⟨_, _, rfl⟩
  · exact .inr ⟨_, rfl⟩
  · split <;> exact .inr ⟨_, rfl⟩

/-- What a step that answers a next state has done: a reset, an entry, nothing at all, or an instruction (R445, R449, R480). -/
theorem step_next_cases {s t : State} (h : step s = .next t) :
    (s.popInput.1.reset = true ∧ State.resetEvent { s with inputs := s.inputs.tail } = .ok t) ∨
    (s.popInput.1.reset = false ∧ ∃ q, s.chosenIrq s.popInput.1.pending = some q ∧
      State.enterIrq { s with inputs := s.inputs.tail } q = .ok t) ∨
    (s.popInput.1.reset = false ∧ s.chosenIrq s.popInput.1.pending = none ∧
      (t = { s with inputs := s.inputs.tail } ∨
        ∃ i n, exec i (State.advance { s with inputs := s.inputs.tail } n) = .next t)) := by
  have hq := chosenIrq_congr s { s with inputs := s.inputs.tail } s.popInput.1.pending rfl rfl
  unfold step at h
  rw [boundary_eq s _ _ (popInput_eq s), hq] at h
  cases hr : s.popInput.1.reset with
  | true =>
    rw [hr, if_pos rfl] at h
    exact .inl ⟨rfl, (outcome_next_iff _ t).1 h⟩
  | false =>
    rw [hr, if_neg nofun] at h
    cases hc : s.chosenIrq s.popInput.1.pending with
    | some q =>
      rw [hc] at h
      exact .inr (.inl ⟨rfl, q, rfl, (outcome_next_iff _ t).1 h⟩)
    | none =>
      rw [hc] at h
      refine .inr (.inr ⟨rfl, rfl, ?_⟩)
      dsimp only at h
      split_ifs at h
      · exact .inl (Except.ok.inj ((outcome_next_iff _ t).1 h)).symm
      · obtain ⟨i, n, e⟩ | ⟨e, he⟩ := fetchInstr_cases { s with inputs := s.inputs.tail }
        · rw [e] at h
          exact .inr ⟨i, n, h⟩
        · rw [he] at h
          exact absurd ((outcome_next_iff _ t).1 h) nofun

/-- A step keeps the parameters and the invariant; a reset, an interrupt entry and a wake-up refill the queue (R78(d)). -/
theorem step_keeps {s t : State} (h : step s = .next t) :
    ∃ refill, s.Keeps t refill ∧
      (s.popInput.1.reset = true ∨ (s.chosenIrq s.popInput.1.pending).isSome = true → refill = true) := by
  have hpop : s.Keeps { s with inputs := s.inputs.tail } false := Keeps_of_eq
  obtain ⟨-, hr⟩ | ⟨-, q, -, hi⟩ | ⟨hr, hc, rfl | ⟨i, n, he⟩⟩ := step_next_cases h
  · exact ⟨true, Keeps_trans hpop ((resetEvent_sound _ (bad := false)).ok t hr), fun _ => rfl⟩
  · exact ⟨true, Keeps_trans hpop ((takeException_sound _ _ _ _ (bad := false)).ok t hi), fun _ => rfl⟩
  · exact ⟨false, hpop, by simp [hr, hc]⟩
  · exact ⟨_, Keeps_trans (Keeps_trans hpop Keeps_of_eq) ((exec_answers i _).next t he), by simp [hr, hc]⟩

/-- Settles O16: every step keeps the invariant and the parameters. -/
theorem stepKeepsInvariant : Obligations.StepKeepsInvariant := by
  intro s t hi h
  obtain ⟨_, hk, -⟩ := step_keeps h
  exact ⟨hk.inv hi, hk.cfg⟩

/-- Settles O17: memory lists no byte and the queue has noted none. -/
theorem resetInvariant : Obligations.ResetInvariant := ⟨Memory.wf_reset, List.nodup_nil⟩

end Sys2Proof.Machine
end

section
/-! PROOFS. Words and devices in memory: what a word access, a 16-bit store, a device and the entry of an interrupt do (R63,
R64, R178, R448). -/

namespace Sys2Proof.Machine

/-! ## Words -/

/-- Settles O10: the written word is read back from the two bytes, at the end of memory too. -/
theorem wordAccess : Obligations.WordAccess := by
  intro s a v hw hwr hrd
  obtain ⟨hlo, hhi⟩ := PlainAt_pair_of_PlainFrom s _ a hwr
  obtain ⟨t, hwrite, ht, -, hbyte⟩ := write16_wrote s a v hw hlo hhi
  have hcfg : t.cfg = s.cfg := by rw [ht]
  obtain ⟨hlo', hhi'⟩ := PlainAt_pair_of_PlainFrom s _ a hrd
  rw [← PlainAt_congr s t _ _ hcfg] at hlo' hhi'
  have hword : t.wordAt a = v := by simp [State.wordAt, hbyte]
  refine ⟨t, hwrite, by simp [hbyte, hiByte], by simp [hbyte, loByte], ?_, fun b hb => ?_⟩
  · rw [read16_plain t a hlo' hhi', hword]
  · obtain ⟨h0, h1⟩ := ne_of_two_le_sub a b hb
    rw [hbyte, if_neg h1, if_neg h0]

/-! ## Operands and what they write -/

/-- The evaluation of an operand writes at most the register that an auto form adjusts (R145). -/
theorem Writes_of_Operand {s t : State} {l : List RegName} (h : s.Operand t l) : s.Writes t l [] [] :=
  ⟨Effect_of_ccr h.regs (Operand_ccr h) (Operand_stopped h) (Operand_inputs h) (Operand_cfg h), Operand_byteAt h,
    Operand_pc h⟩

/-- A change of memory and of what the queue has noted writes no register and no flag. -/
theorem Effect_of_memory {s t : State} {l : List RegName} {fl : List (Flag × Bool)} {free : List Flag}
    (h : s.Effect t l fl free) (mem : List Host.Cell) (stale : List Word) :
    s.Effect { t with mem := mem, stale := stale } l fl free :=
  ⟨h.regs, h.flagsSet, h.flagsKept, h.stopped, h.inputs, h.cfg⟩

/-- Without the overlap of R152 no part of the register is the one that the operand adjusts. -/
theorem not_mem_adjusts_of_overlaps {auto : Option AutoReg} {r : Reg16} (ho : overlaps auto (reg16Auto r) = false) :
    ∀ n ∈ reg16Names r, n ∉ adjusts auto := by
  cases auto with
  | none => simp [adjusts]
  | some q => revert ho; cases q <;> cases r <;> decide

/-- A 16-bit register that the operand does not adjust is as it was (R152). -/
theorem get16_of_Operand {s t : State} {auto : Option AutoReg} {r : Reg16} (h : s.Operand t (adjusts auto))
    (ho : overlaps auto (reg16Auto r) = false) : t.get16 r = s.get16 r := by
  have hkept : ∀ n ∈ reg16Names r, t.reg n = s.reg n := fun n hn => h.regs n (not_mem_adjusts_of_overlaps ho n hn)
  cases r with
  | d => exact Operand_d h
  | x => exact hkept .x List.mem_cons_self
  | y => exact hkept .y List.mem_cons_self
  | sp => exact hkept .sp List.mem_cons_self

/-- What an operand and then the flags of a load or a store write, and a register before them. -/
theorem Writes_operand_logicFlags {w : Nat} {s t u : State} {l l' : List RegName} (h : s.Operand t l)
    (h' : t.Writes u l' [] []) (v : BitVec w) :
    s.Writes (u.logicFlags v) (l ++ l') [(.n, v.msb), (.z, v == 0), (.v, false)] [] := by
  simpa using Writes_trans (Writes_trans (Writes_of_Operand h) h') (Writes_logicFlags u v)

/-! ## 16-bit stores -/

/-- A 16-bit store once its address and its word have been written. -/
theorem store16_of_write16 {s s1 u : State} {r : Reg16} {m : Mem} {ea : Word} (hea : s.ea m = .ok (ea, s1))
    (ho : overlaps (memAuto m) (reg16Auto r) = false) (hw : s1.write16 ea (s1.get16 r) = .ok u) :
    store16 r m s = .next (u.logicFlags (u.get16 r)) := by
  simp only [store16, ho, refuseIf_false, hea, ok_bind, hw, outcome_ok]

/-- A 16-bit store to plain memory (R64, R178). -/
theorem store16_completes {s s1 : State} {r : Reg16} {m : Mem} {ea : Word} (hw : Memory.wf s.mem)
    (hea : s.ea m = .ok (ea, s1)) (hp : s.PlainFrom .write ea 2) (ho : overlaps (memAuto m) (reg16Auto r) = false) :
    ∃ t, store16 r m s = .next t ∧
      s.Effect t (adjusts (memAuto m)) [(.n, (s.get16 r).msb), (.z, s.get16 r == 0), (.v, false)] [] ∧
      s.SameMemBut t ea 2 ∧ t.pc = s.pc ∧ t.wordAt ea = s.get16 r ∧
      ∀ q ∈ adjusts (memAuto m), t.reg q = s1.reg q := by
  have hop := ea_frame s m ea s1 hea
  obtain ⟨hlo, hhi⟩ := PlainAt_pair_of_PlainFrom s _ ea hp
  rw [← Operand_PlainAt hop] at hlo hhi
  obtain ⟨u, hwrite, hu, -, hbyte⟩ := write16_wrote s1 ea (s1.get16 r) (Operand_mem hop ▸ hw) hlo hhi
  have hur : u.get16 r = s1.get16 r := by rw [hu]; cases r <;> rfl
  have hrun := store16_of_write16 hea ho hwrite
  rw [hur, get16_of_Operand hop ho] at hrun
  rw [get16_of_Operand hop ho] at hbyte
  have hbyte' : ∀ b, (u.logicFlags (s.get16 r)).byteAt b = u.byteAt b := fun b => by simp [State.byteAt]
  have hregs : ∀ q, (u.logicFlags (s.get16 r)).reg q = s1.reg q := fun q => by rw [hu]; cases q <;> simp
  refine ⟨_, hrun, ?_, fun b hb => ?_, ?_, ?_, fun q _ => hregs q⟩
  · rw [hu]
    exact Effect_of_memory (by simpa using (Writes_operand_logicFlags hop (Writes_refl s1) (s.get16 r)).effect) u.mem u.stale
  · obtain ⟨h0, h1⟩ := ne_of_two_le_sub ea b hb
    rw [hbyte', hbyte, if_neg h1, if_neg h0, Operand_byteAt hop]
  · rw [hu]
    simp [Operand_pc hop]
  · simp [State.wordAt, hbyte', hbyte]

/-- Settles O36: the four stores are one operation on the four registers. -/
theorem storeWord : Obligations.StoreWord := by
  intro p hp m s s1 ea hw hea hplain ho
  have hexec : exec (p.2 m) s = store16 p.1 m s := by
    simp only [List.mem_cons, List.not_mem_nil, or_false] at hp
    rcases hp with rfl | rfl | rfl | rfl <;> rfl
  rw [CompletesStore, hexec]
  exact store16_completes hw hea hplain ho

/-! ## Devices -/

/-- A load of A or B once its operand has been read (R171). -/
theorem load8_of_opnd8 {s s1 : State} {r : Reg8} {op : Src8} {v : Byte} (h : s.opnd8 op = .ok (v, s1)) :
    load8 r op s = .next ((s1.set8 r v).logicFlags v) := by
  simp only [load8, h, ok_bind, outcome_ok]

/-- What a load of A or B writes (R171). -/
theorem Writes_load8 {s s1 : State} {op : Src8} {v : Byte} (r : Reg8) (h : s.opnd8 op = .ok (v, s1)) :
    s.Writes ((s1.set8 r v).logicFlags v) (adjusts (src8Auto op) ++ reg8Names r)
      [(.n, v.msb), (.z, v == 0), (.v, false)] [] :=
  Writes_operand_logicFlags (opnd8_frame s op v s1 h) (Writes_set8 s1 r v) v

/-- A device that admits reads answers some byte (R63; log 6). -/
theorem opnd8_device {s s1 : State} {m : Mem} {ea : Word} (hea : s.ea m = .ok (ea, s1)) (ha : s.admits .read ea = true)
    (hd : s.isDevice ea = true) : ∃ v t, s.opnd8 (.mem m) = .ok (v, t) := by
  have hcfg := Operand_cfg (ea_frame s m ea s1 hea)
  rw [← admits_congr s s1 _ _ hcfg] at ha
  rw [← isDevice_congr s s1 _ hcfg] at hd
  exact ⟨_, _, (opnd8_mem s m _ _).2 ⟨ea, s1, hea, (read8_ok_iff s1 ea _ _).2 ⟨ha, .inr ⟨hd, rfl, rfl⟩⟩⟩⟩

/-- A byte stored into a device changes nothing but flags of the machine (R63; log 6). -/
theorem store8_device {s s1 : State} {m : Mem} {ea : Word} (r : Reg8) (hea : s.ea m = .ok (ea, s1))
    (ha : s.admits .write ea = true) (hd : s.isDevice ea = true) :
    store8 r m s = .next (s1.logicFlags (s1.get8 r)) := by
  have hcfg := Operand_cfg (ea_frame s m ea s1 hea)
  rw [← admits_congr s s1 _ _ hcfg] at ha
  rw [← isDevice_congr s s1 _ hcfg] at hd
  have hw : s1.write8 ea (s1.get8 r) = .ok s1 := (write8_ok_iff s1 ea _ s1).2 ⟨ha, by rw [if_pos hd]⟩
  simp only [store8, hea, ok_bind, hw, outcome_ok]

/-- Settles O13: a load from a device is a load of a free value, a store into one writes flags only. -/
theorem deviceAccess : Obligations.DeviceAccess := by
  refine ⟨fun s s1 m ea hea ha hd => ?load, fun s s1 m ea hea ha hd => ?store⟩
  case load =>
    obtain ⟨v, t, hop⟩ := opnd8_device hea ha hd
    exact ⟨v, Completes_of_Writes (load8_of_opnd8 hop)
      (Writes_subset (Writes_load8 .a hop) (by simp [reg8Names, src8Auto, or_comm])) (by simp)⟩
  case store =>
    have hop := ea_frame s m ea s1 hea
    have hwr := Writes_operand_logicFlags hop (Writes_refl s1) (s1.get8 .a)
    rw [List.append_nil, get8_a, Operand_a hop] at hwr
    exact Completes_of_Writes (store8_device .a hea ha hd) (Operand_a hop ▸ hwr) trivial

/-! ## Interrupt entry -/

/-- A boundary at which a request is chosen enters it (R445, R448, R449). -/
theorem step_enterIrq {s : State} {q : IrqSource} (hr : s.popInput.1.reset = false)
    (hq : s.chosenIrq s.popInput.1.pending = some q) :
    step s = outcome (State.enterIrq { s with inputs := s.inputs.tail } q) := by
  have hq' := (chosenIrq_congr s { s with inputs := s.inputs.tail } s.popInput.1.pending rfl rfl).trans hq
  rw [step, boundary_eq s _ _ (popInput_eq s), hr, if_neg nofun, hq']

/-- Settles O27: an entry with a frame, read off field by field. -/
theorem interruptEntry : Obligations.InterruptEntry := by
  intro s inp rest q hin hr hq hs hw hwr hrd
  obtain ⟨t, hrun, ht, hframe, hmem, -⟩ :=
    takeException_plain { s with inputs := rest } q.vector (q.cls == .x) hw hwr hrd
  have hpop : s.popInput.1 = inp := by rw [popInput_cons s inp rest hin]
  have hstep : step s = outcome (State.enterIrq { s with inputs := rest } q) := by
    rw [step_enterIrq (q := q) (hpop ▸ hr) (hpop ▸ hq), hin, List.tail_cons]
  have henter : State.enterIrq { s with inputs := rest } q = .ok t := by
    have hframe : (!s.stopped) = true := by rw [hs]; rfl
    exact (congrArg (fun b => State.takeException _ q.vector b (q.cls == .x)) hframe).trans hrun
  have hccr : t.ccr = entryCcr s.ccr (q.cls == .x) := by rw [ht]
  have hflag : ∀ f, t.flag f = if f = .i then true else if f = .x then q.cls == .x || s.flag .x else s.flag f :=
    fun f => by rw [flag_def, hccr, ccrFlag_entryCcr]; rfl
  refine ⟨t, by rw [hstep, henter, outcome_ok], ?frame, hmem, ?regs, congrArg State.sp ht, congrArg State.pc ht,
    by simp [hflag], by simp [hflag], fun f hi hx => by rw [hflag, if_neg hi, if_neg hx], congrArg State.stopped ht,
    (congrArg State.inputs ht :), (congrArg State.cfg ht :)⟩
  case frame => exact ⟨hframe.ccr, hframe.b, hframe.a, hframe.x, hframe.y, hframe.rtn⟩
  case regs =>
    intro r hr
    rw [ht]
    cases r with
    | sp => exact absurd rfl hr
    | a | b | x | y => rfl

end Sys2Proof.Machine
end

section
/-! PROOFS. Fetches that stop (R63, R78, R79): the bytes before the one that stops decide that more are wanted, because a reader
which has answered on some bytes answers the same on more of them. -/

namespace Sys2Proof

/-! ## Readers on more bytes -/

/-- What a reader has answered, with more bytes behind those it was given. -/
def withMore {α : Type} (more : List Byte) : Except DecodeError (α × List Byte) → Except DecodeError (α × List Byte)
  | .ok (x, rest) => .ok (x, rest ++ more)
  | .error e => .error e

/-- On any bytes `f` wants more, or it answers the same whatever bytes come behind them. -/
def Stable {α : Type} (f : Take α) : Prop :=
  ∀ bs more, f bs = .error .truncated ∨ f (bs ++ more) = withMore more (f bs)

theorem Stable_error {α : Type} (e : DecodeError) : Stable (α := α) fun _ => .error e := fun _ _ => .inr rfl

theorem Stable_ok {α : Type} (x : α) : Stable fun bs => .ok (x, bs) := fun _ _ => .inr rfl

/-- A reader that looks at the first byte and goes on. -/
theorem Stable_cons {α : Type} {f : Take α} (hnil : f [] = .error .truncated) (hcons : ∀ b, Stable fun bs => f (b :: bs)) :
    Stable f := by
  intro bs more
  cases bs with
  | nil => exact .inl hnil
  | cons b bs => exact hcons b bs more

/-- One reader after another. -/
theorem Stable_bind {α β : Type} {f : Take α} {g : α → Take β} (hf : Stable f) (hg : ∀ a, Stable (g a)) :
    Stable fun bs => f bs >>= fun p => g p.1 p.2 := by
  intro bs more
  dsimp only
  rcases hf bs more with h | h
  · exact .inl (by rw [h]; rfl)
  · rw [h]
    match f bs with
    | .error e => exact .inr rfl
    | .ok (a, rest) => exact hg a rest more

/-- What is read, put into a constructor. -/
theorem Stable_map {α β : Type} {f : Take α} (g : α → β) (hf : Stable f) :
    Stable fun bs => f bs >>= fun p => .ok (g p.1, p.2) := Stable_bind hf fun a => Stable_ok (g a)

/-! ## Operands and formats (R91) -/

@[simp] theorem takeByte_stable : Stable takeByte := Stable_cons rfl Stable_ok

@[simp] theorem takeWord_stable : Stable takeWord :=
  Stable_cons rfl fun hi => Stable_cons rfl fun lo => Stable_ok (mkWord hi lo)

theorem takeIdx_cons_stable (xb : Byte) : Stable fun bs => takeIdx (xb :: bs) := by
  obtain ⟨i, h⟩ | ⟨-, ⟨g, h⟩ | ⟨g, h⟩⟩ := takeIdx_cons xb
  · exact funext h ▸ Stable_ok i
  · exact funext h ▸ Stable_map g takeByte_stable
  · exact funext h ▸ Stable_map g takeWord_stable

/-- An indexed operand (R107(a)). -/
theorem takeIdx_stable : Stable takeIdx := Stable_cons rfl takeIdx_cons_stable

/-- An indexed operand of the class without extension bytes (R107(c)). -/
theorem takeIdxShort_stable : Stable takeIdxShort := by
  refine Stable_cons rfl fun xb => ?_
  simp only [takeIdxShort]
  split
  · exact takeIdx_cons_stable xb
  · exact Stable_error _

/-- An indexed operand of a class without indirection (R107(b)). -/
theorem takeIdxDirect_stable : Stable takeIdxDirect := by
  refine Stable_cons rfl fun xb => ?_
  simp only [takeIdxDirect]
  split
  · exact Stable_error _
  · exact takeIdx_cons_stable xb

@[simp] theorem takeDir_stable : Stable takeDir := Stable_map Mem.dir takeByte_stable

@[simp] theorem takeExt_stable : Stable takeExt := Stable_map Mem.ext takeWord_stable

@[simp] theorem takeMemIdx_stable : Stable takeMemIdx := Stable_map Mem.idx takeIdx_stable

@[simp] theorem takeMemIdxDirect_stable : Stable takeMemIdxDirect := Stable_map Mem.idx takeIdxDirect_stable

@[simp] theorem takeMemIdxShort_stable : Stable takeMemIdxShort := Stable_map Mem.idx takeIdxShort_stable

@[simp] theorem takeImm8_stable : Stable takeImm8 := Stable_map Src8.imm takeByte_stable

@[simp] theorem takeImm16_stable : Stable takeImm16 := Stable_map Src16.imm takeWord_stable

@[simp] theorem takeSrc8_stable {t : Take Mem} (h : Stable t) : Stable (takeSrc8 t) := Stable_map Src8.mem h

@[simp] theorem takeSrc16_stable {t : Take Mem} (h : Stable t) : Stable (takeSrc16 t) := Stable_map Src16.mem h

@[simp] theorem fInh_stable (i : Instr) : Stable (fInh i) := Stable_ok i

@[simp] theorem fByte_stable (f : Byte → Instr) : Stable (fByte f) := Stable_map f takeByte_stable

@[simp] theorem fWord_stable (f : Word → Instr) : Stable (fWord f) := Stable_map f takeWord_stable

@[simp] theorem fMem_stable {t : Take Mem} (h : Stable t) (f : Mem → Instr) : Stable (fMem t f) := Stable_map f h

@[simp] theorem fLea_stable (f : Idx → Instr) : Stable (fLea f) := Stable_map f takeIdxDirect_stable

@[simp] theorem fBitMem_stable {t : Take Mem} (h : Stable t) (f : Mem → Byte → Instr) : Stable (fBitMem t f) :=
  Stable_bind h fun m => Stable_map (f m) takeByte_stable

@[simp] theorem fBitBranch_stable {t : Take Mem} (h : Stable t) (f : Mem → Byte → Byte → Instr) :
    Stable (fBitBranch t f) :=
  Stable_bind h fun m => Stable_bind takeByte_stable fun mm => Stable_map (f m mm) takeByte_stable

@[simp] theorem fMoveSrcFirst_stable {α : Type} {tSrc : Take α} {tDst : Take Mem} (hs : Stable tSrc) (hd : Stable tDst)
    (f : α → Mem → Instr) : Stable (fMoveSrcFirst tSrc tDst f) := Stable_bind hs fun src => Stable_map (f src) hd

@[simp] theorem fMoveDstFirst_stable {α : Type} {tSrc : Take α} (hs : Stable tSrc) (f : α → Mem → Instr) :
    Stable (fMoveDstFirst tSrc f) := Stable_bind takeMemIdxShort_stable fun dst => Stable_map (fun src => f src dst) hs

/-- `eb` alone (R110). -/
@[simp] theorem fXfer_stable : Stable fXfer := by
  refine Stable_cons rfl fun eb => ?_
  simp only [fXfer]
  split
  · split
    · exact Stable_error _
    · exact Stable_ok _
  · exact Stable_error _

/-- `lb` and the low byte of the offset (R115). -/
@[simp] theorem fLoop_stable : Stable fLoop := by
  refine Stable_cons rfl fun lb => ?_
  simp only [fLoop]
  split
  next f c _ _ =>
    split
    · exact Stable_error _
    · exact Stable_map (fun rr => f c (lb.extractLsb' 4 1 ++ rr)) takeByte_stable
  next => exact Stable_error _

/-! ## The opcode maps (R120, R121) -/

/-- Every row of the map is stable. -/
def PageStable (page : List OpRow) : Prop := ∀ row ∈ page, Stable row.2

@[simp] theorem PageStable_nil : PageStable [] := List.forall_mem_nil _

@[simp] theorem PageStable_cons (o : Nat) (f : Take Instr) (p : List OpRow) :
    PageStable ((o, f) :: p) ↔ Stable f ∧ PageStable p := List.forall_mem_cons

@[simp] theorem PageStable_append (p q : List OpRow) : PageStable (p ++ q) ↔ PageStable p ∧ PageStable q :=
  List.forall_mem_append

@[simp] theorem rows8_stable (o : Nat) (f : Src8 → Instr) : PageStable (rows8 o f) := by simp [rows8]

@[simp] theorem rows16_stable (o : Nat) (f : Src16 → Instr) : PageStable (rows16 o f) := by simp [rows16]

@[simp] theorem rowsStore_stable (o : Nat) (f : Mem → Instr) : PageStable (rowsStore o f) := by simp [rowsStore]

@[simp] theorem rowsRmw_stable (o : Nat) (f : Mem → Instr) (a b : Instr) : PageStable (rowsRmw o f a b) := by simp [rowsRmw]

theorem page1_stable : PageStable page1 := by
  unfold page1
  simp

theorem page2_stable : PageStable page2 := by
  unfold page2
  simp

/-- Naming the opcode bytes in an error is the same before and after more bytes. -/
theorem underOpcode_withMore (op more : List Byte) (r : Except DecodeError (Instr × List Byte)) :
    underOpcode op (withMore more r) = withMore more (underOpcode op r) := by
  match r with
  | .ok _ | .error .truncated | .error (.illegal _) => rfl

theorem decodeOn_stable {page : List OpRow} (h : PageStable page) (shown : List Byte) (op : Byte) :
    Stable (decodeOn page shown op) := by
  intro bs more
  unfold decodeOn
  split
  next f hf =>
    obtain ⟨l₁, l₂, hpage, -⟩ := List.lookup_eq_some_iff.1 hf
    have hrow : Stable f := h (op.toNat, f) (hpage ▸ by simp)
    rcases hrow bs more with hs | hs
    · exact .inl (by rw [hs]; rfl)
    · exact .inr (by rw [hs, underOpcode_withMore])
  next => exact .inr rfl

/-- The decoder wants more bytes, or it answers the same whatever bytes follow (R79, R90). -/
theorem decode_stable : Stable decode := by
  refine Stable_cons rfl fun op => ?_
  by_cases h18 : op = 0x18
  · subst h18
    exact Stable_cons rfl fun op2 => decodeOn_stable page2_stable _ op2
  · simp only [decode, h18, if_false]
    exact decodeOn_stable page1_stable _ op

/-- The bytes of an instruction, cut short, are no instruction: the decoder wants more. -/
theorem decode_take {bytes : List Byte} {i : Instr} {k : Nat} (hd : decode bytes = .ok (i, [])) (hk : k < bytes.length) :
    decode (bytes.take k) = .error .truncated := by
  refine (decode_stable (bytes.take k) (bytes.drop k)).resolve_right fun h => ?_
  rw [List.take_append_drop, hd] at h
  match decode (bytes.take k), h with
  | .ok (j, rest), h =>
    obtain ⟨-, hnil⟩ := Prod.mk.inj (Except.ok.inj h)
    have hlen : (bytes.drop k).length = 0 := by rw [(List.append_eq_nil_iff.1 hnil.symm).2]; rfl
    rw [List.length_drop] at hlen
    omega

end Sys2Proof

namespace Sys2Proof.Machine

/-! ## Fetches that stop -/

theorem fetchByte_unadmitted {s : State} {k : Nat} (h : s.admits .fetch (s.pc + BitVec.ofNat 16 k) = false) :
    s.fetchByte k = .error (.fault (.unadmittedFetch (s.pc + BitVec.ofNat 16 k))) := by
  simp [State.fetchByte, h]

theorem fetchByte_stale {s : State} {k : Nat} (h : s.admits .fetch (s.pc + BitVec.ofNat 16 k) = true)
    (hs : s.pc + BitVec.ofNat 16 k ∈ s.stale) :
    s.fetchByte k = .error (.refused (.storeIntoPrefetchWindow (s.pc + BitVec.ofNat 16 k))) := by
  simp [State.fetchByte, h, hs]

/-- What is fetched ends at the byte that cannot be fetched. -/
theorem fetchFrom_stop {s : State} {e : Stop} (bytes : List Byte) (fuel k : Nat) (hf : bytes.length < fuel)
    (h : ∀ j, (hj : j < bytes.length) → s.fetchByte (k + j) = .ok bytes[j])
    (he : s.fetchByte (k + bytes.length) = .error e) : s.fetchFrom fuel k = (bytes, some e) := by
  induction bytes generalizing fuel k with
  | nil =>
    cases fuel with
    | zero => exact absurd hf nofun
    | succ n => simp only [State.fetchFrom, show s.fetchByte k = .error e from he]
  | cons b bs ih =>
    cases fuel with
    | zero => exact absurd hf nofun
    | succ n =>
      have h0 : s.fetchByte k = .ok b := h 0 (Nat.succ_pos _)
      have hrest : s.fetchFrom n (k + 1) = (bs, some e) := by
        refine ih n (k + 1) (Nat.lt_of_succ_lt_succ hf) (fun j hj => ?_) ?_
        · rw [show k + 1 + j = k + (j + 1) by omega, h (j + 1) (Nat.succ_lt_succ hj)]
          rfl
        · rw [show k + 1 + bs.length = k + (b :: bs).length by simp; omega, he]
      simp only [State.fetchFrom, h0, hrest]

/-- Where the bytes up to the one that cannot be fetched make no instruction, the fetch stops (R79). -/
theorem fetchInstr_stop {s : State} {e : Stop} {bytes : List Byte} (hd : decode bytes = .error .truncated)
    (hl : bytes.length < maxLength) (h : ∀ j, (hj : j < bytes.length) → s.fetchByte j = .ok bytes[j])
    (he : s.fetchByte bytes.length = .error e) : s.fetchInstr = .done (.error e) := by
  have hfetch : s.fetchFrom maxLength 0 = (bytes, some e) :=
    fetchFrom_stop bytes maxLength 0 hl (by simpa using h) (by simpa using he)
  simp only [State.fetchInstr, hfetch, hd]

/-- Bytes of plain code are fetched as they stand. -/
theorem fetchByte_of_CodeUpTo {s : State} {bytes : List Byte} {j k : Nat} (hc : s.CodeUpTo bytes k) (hj : j < k)
    (hb : j < (bytes.take k).length) : s.fetchByte j = .ok (bytes.take k)[j] := by
  obtain ⟨hplain, hstale, hbyte⟩ := hc j hj
  rw [List.getElem_take, fetchByte_plain s j hplain hstale]
  exact congrArg _ (Option.some.inj (hbyte.symm.trans (List.getElem?_eq_getElem _)))

/-- A quiet step whose fetch stops at a byte of the instruction stops there. -/
theorem step_stop_at {s : State} {e : Stop} {bytes : List Byte} {i : Instr} {k : Nat} (hq : s.Quiet)
    (hd : decode bytes = .ok (i, [])) (hk : k < bytes.length) (hc : s.CodeUpTo bytes k) (he : s.fetchByte k = .error e) :
    step s = outcome (.error e) := by
  have hlen : (bytes.take k).length = k := List.length_take_of_le hk.le
  have hmax : bytes.length ≤ maxLength := by
    obtain ⟨used, hbytes, hused, -⟩ := decode_reads bytes i [] hd
    rw [hbytes, List.append_nil]
    exact hused
  have hstop : State.fetchInstr { s with inputs := s.inputs.tail } = .done (.error e) :=
    fetchInstr_stop (decode_take hd hk) (by omega) (fun j hj => fetchByte_of_CodeUpTo hc (hlen ▸ hj) hj)
      (by rw [hlen]; exact he)
  rw [step, boundary_quiet s hq, hstop]

/-- A quiet step whose fetch stops at PC stops there, whatever stands at PC. -/
theorem step_stop_at_pc {s : State} {e : Stop} (hq : s.Quiet) (he : s.fetchByte 0 = .error e) :
    step s = outcome (.error e) := by
  have hstop : State.fetchInstr { s with inputs := s.inputs.tail } = .done (.error e) :=
    fetchInstr_stop (bytes := []) rfl (by decide) nofun he
  rw [step, boundary_quiet s hq, hstop]

/-! ## Stores into the queue -/

/-- A byte stored into plain memory is noted when and only when it lies in the window (R78, D16). -/
theorem mem_stale_store (s : State) (a b : Word) (v : Byte) :
    b ∈ (s.store a v).stale ↔ b ∈ s.stale ∨ (b = a ∧ (a - s.pc).toNat < s.cfg.queueBytes) := by
  have hst : (s.store a v).stale = if s.inWindow a then s.stale.insert a else s.stale := rfl
  rw [hst]
  by_cases hw : (a - s.pc).toNat < s.cfg.queueBytes
  · simp only [State.inWindow, hw, decide_true, if_true, List.mem_insert_iff, and_true, or_comm]
  · simp only [State.inWindow, hw, decide_false, Bool.false_eq_true, if_false, and_false, or_false]

/-- Settles O7: a store notes by the window, a noted byte stops its fetch, and what an instruction and a step keep of the notes
is said by `exec_answers` and `step_keeps`. -/
theorem selfModification : Obligations.SelfModification := by
  refine ⟨?store, ?atPc, ?atByte, ?exec, ?event⟩
  case store =>
    intro s t a b v hp hw
    obtain rfl := Except.ok.inj ((write8_plain s a v hp).symm.trans hw)
    exact mem_stale_store s a b v
  case atPc =>
    intro s hq ha hs
    rw [show s.pc = s.pc + BitVec.ofNat 16 0 by simp] at ha hs ⊢
    exact step_stop_at_pc hq (fetchByte_stale ha hs)
  case atByte =>
    rintro s bytes i k a hq hd hk hc rfl ha hs
    exact step_stop_at hq hd hk hc (fetchByte_stale ha hs)
  case exec =>
    intro i s t h
    have hkeeps := (exec_answers i s).next t h
    exact ⟨hkeeps.refilled, hkeeps.noted⟩
  case event =>
    intro s t he h
    obtain ⟨_, hkeeps, hrefill⟩ := step_keeps h
    exact hkeeps.refilled (hrefill he)

end Sys2Proof.Machine
end

section
/-! PROOFS. Accesses outside what `MemMap` admits (R63, R72, R442): each operation stops at the first of its accesses that is
not admitted, and an instruction stops as the first operation of its meaning does. -/

namespace Sys2Proof.Machine

/-! ## The first access that is not admitted -/

theorem not_StopsAt_nil {s : State} {k : Access} {a : Word} : ¬s.StopsAt k [] a := by
  rintro ⟨before, after, h, -⟩
  simp at h

theorem StopsAt_cons {s : State} {k : Access} {as : List Word} {a b : Word} (h : s.StopsAt k (b :: as) a) :
    (a = b ∧ s.admits k b = false) ∨ (s.admits k b = true ∧ s.StopsAt k as a) := by
  obtain ⟨before, after, he, hb, ha⟩ := h
  cases before with
  | nil =>
    obtain ⟨rfl, -⟩ := List.cons.inj he
    exact .inl ⟨rfl, ha⟩
  | cons c before =>
    obtain ⟨rfl, rfl⟩ := List.cons.inj he
    exact .inr ⟨hb b List.mem_cons_self, before, after, rfl, fun d hd => hb d (List.mem_cons_of_mem _ hd), ha⟩

theorem StopsAt_singleton {s : State} {k : Access} {a b : Word} (h : s.StopsAt k [b] a) : a = b ∧ s.admits k b = false :=
  (StopsAt_cons h).resolve_right fun h' => not_StopsAt_nil h'.2

/-- The first access that is not admitted is among the first ones, or these are admitted and it comes later. -/
theorem StopsAt_append {s : State} {k : Access} {as bs : List Word} {a : Word} (h : s.StopsAt k (as ++ bs) a) :
    s.StopsAt k as a ∨ ((∀ b ∈ as, s.admits k b = true) ∧ s.StopsAt k bs a) := by
  induction as with
  | nil => exact .inr ⟨List.forall_mem_nil _, h⟩
  | cons c as ih =>
    obtain ⟨rfl, ha⟩ | ⟨hc, h⟩ := StopsAt_cons h
    · exact .inl ⟨[], as, rfl, List.forall_mem_nil _, ha⟩
    · refine (ih h).imp ?_ fun ⟨hall, hb⟩ => ⟨List.forall_mem_cons.2 ⟨hc, hall⟩, hb⟩
      rintro ⟨before, after, rfl, hb, ha⟩
      exact ⟨c :: before, after, rfl, List.forall_mem_cons.2 ⟨hc, hb⟩, ha⟩

theorem StopsAt_congr {s t : State} {k : Access} {as : List Word} {a : Word} (hc : t.cfg = s.cfg) (h : s.StopsAt k as a) :
    t.StopsAt k as a := by
  obtain ⟨before, after, he, hb, ha⟩ := h
  exact ⟨before, after, he, fun b hm => (admits_congr s t k b hc).trans (hb b hm), (admits_congr s t k a hc).trans ha⟩

/-! ## Operations as lists of accesses -/

/-- How an access that is not admitted stops the machine (R63). -/
def Access.stop (k : Access) (a : Word) : Stop :=
  match k with
  | .read => .fault (.unadmittedRead a)
  | .write => .fault (.unadmittedWrite a)
  | .fetch => .fault (.unadmittedFetch a)

/-- The operation, run in `s`, makes the accesses at the addresses `as` in this order, `st` the state of what it answers: it
stops at the first that is not admitted, and where all are admitted it answers and keeps the parameters. -/
structure State.Accesses {α : Type} (s : State) (k : Access) (as : List Word) (st : α → State) (x : Res α) : Prop where
  stops : ∀ a, s.StopsAt k as a → x = .error (k.stop a)
  answers : (∀ b ∈ as, s.admits k b = true) → ∃ v, x = .ok v ∧ (st v).cfg = s.cfg

/-- One operation after another. -/
theorem Accesses_bind {α β : Type} {s : State} {k : Access} {as bs : List Word} {st : α → State} {st' : β → State}
    {x : Res α} {f : α → Res β} (hx : s.Accesses k as st x)
    (hf : ∀ v, x = .ok v → (st v).Accesses k bs st' (f v)) : s.Accesses k (as ++ bs) st' (x >>= f) := by
  constructor
  · intro a h
    obtain h | ⟨hall, h⟩ := StopsAt_append h
    · rw [hx.stops a h, error_bind]
    · obtain ⟨v, hv, hc⟩ := hx.answers hall
      rw [hv, ok_bind, (hf v hv).stops a (StopsAt_congr hc h)]
  · intro hall
    obtain ⟨v, hv, hc⟩ := hx.answers fun b hb => hall b (List.mem_append_left _ hb)
    obtain ⟨w, hw, hc'⟩ := (hf v hv).answers fun b hb =>
      (admits_congr s _ k b hc).trans (hall b (List.mem_append_right _ hb))
    exact ⟨w, by rw [hv, ok_bind, hw], hc'.trans hc⟩

/-- One operation after another that answers a state. -/
theorem Accesses_then {β : Type} {s : State} {k : Access} {as bs : List Word} {st : β → State} {x : Res State}
    {f : State → Res β} (hx : s.Accesses k as id x) (hf : ∀ u, x = .ok u → u.Accesses k bs st (f u)) :
    s.Accesses k (as ++ bs) st (x >>= f) := Accesses_bind hx hf

/-- An operation that makes no access. -/
theorem Accesses_ok {α : Type} {s : State} {k : Access} {st : α → State} {v : α} (hc : (st v).cfg = s.cfg) :
    s.Accesses k [] st (.ok v) := ⟨fun _ h => absurd h not_StopsAt_nil, fun _ => ⟨v, rfl, hc⟩⟩

theorem read8_accesses (s : State) (a : Word) : s.Accesses .read [a] Prod.snd (s.read8 a) := by
  constructor
  · intro b h
    obtain ⟨rfl, ha⟩ := StopsAt_singleton h
    exact read8_unadmitted s b ha
  · intro h
    rw [State.read8, if_pos (h a List.mem_cons_self)]
    split <;> exact ⟨_, rfl, rfl⟩

/-- Of a word the byte at the lower address is read first (log 27). -/
theorem read16_accesses (s : State) (a : Word) : s.Accesses .read [a, a + 1] Prod.snd (s.read16 a) :=
  Accesses_bind (as := [a]) (read8_accesses s a) fun (_, u) _ =>
    Accesses_bind (as := [a + 1]) (read8_accesses u (a + 1)) fun _ _ => Accesses_ok rfl

theorem write8_accesses (s : State) (a : Word) (v : Byte) : s.Accesses .write [a] id (s.write8 a v) := by
  constructor
  · intro b h
    obtain ⟨rfl, ha⟩ := StopsAt_singleton h
    exact write8_unadmitted s b v ha
  · intro h
    rw [State.write8, if_pos (h a List.mem_cons_self)]
    refine ⟨_, rfl, ?_⟩
    split <;> rfl

theorem write8_accesses_at {s : State} {a b : Word} (v : Byte) (h : a = b) : s.Accesses .write [b] id (s.write8 a v) :=
  h ▸ write8_accesses s a v

/-- Of a word the byte at the lower address is written first (log 27). -/
theorem write16_accesses (s : State) (a v : Word) : s.Accesses .write [a, a + 1] id (s.write16 a v) :=
  Accesses_then (as := [a]) (write8_accesses s a _) fun u _ => write8_accesses u (a + 1) _

/-- What a state that differs in registers only accesses. -/
theorem Accesses_of_cfg {α : Type} {s u : State} {k : Access} {as : List Word} {st : α → State} {x : Res α}
    (hc : u.cfg = s.cfg) (h : u.Accesses k as st x) : s.Accesses k as st x :=
  ⟨fun a ha => h.stops a (StopsAt_congr hc ha), fun hall =>
    (h.answers fun b hb => (admits_congr s u k b hc).trans (hall b hb)).imp fun _ hv => ⟨hv.1, hv.2.trans hc⟩⟩

theorem push8_accesses {s : State} (v : Byte) {a : Word} (ha : s.sp - 1 = a) : s.Accesses .write [a] id (s.push8 v) :=
  ha ▸ Accesses_of_cfg (u := { s with sp := s.sp - 1 }) rfl (write8_accesses _ _ v)

theorem push16_accesses {s : State} (v : Word) {lo hi : Word} (hlo : s.sp - 2 = lo) (hhi : s.sp - 1 = hi) :
    s.Accesses .write [lo, hi] id (s.push16 v) := by
  have hnext : hi = lo + 1 := by rw [← hlo, ← hhi]; bv_omega
  rw [hnext, ← hlo]
  exact Accesses_of_cfg (u := { s with sp := s.sp - 2 }) rfl (write16_accesses _ _ v)

/-- The nine bytes of a frame are written in the order of `frameWrites` (R80, R421). -/
theorem pushFrame_accesses (s : State) : s.Accesses .write (frameWrites s.sp) id s.pushFrame := by
  refine Accesses_then (as := [s.sp - 2, s.sp - 1]) (push16_accesses s.pc rfl rfl) fun s1 h1 => ?_
  have p1 : s1.sp = s.sp - 2 := by rw [(push16_frame _ _ _ h1).1]
  refine Accesses_then (as := [s.sp - 4, s.sp - 3])
    (push16_accesses s1.y (by rw [p1]; bv_omega) (by rw [p1]; bv_omega)) fun s2 h2 => ?_
  have p2 : s2.sp = s.sp - 4 := by rw [(push16_frame _ _ _ h2).1, p1]; bv_omega
  refine Accesses_then (as := [s.sp - 6, s.sp - 5])
    (push16_accesses s2.x (by rw [p2]; bv_omega) (by rw [p2]; bv_omega)) fun s3 h3 => ?_
  have p3 : s3.sp - 2 = s.sp - 8 := by rw [(push16_frame _ _ _ h3).1, p2]; bv_omega
  refine Accesses_of_cfg (u := { s3 with sp := s3.sp - 2 }) rfl ?_
  refine Accesses_then (as := [s.sp - 8]) (write8_accesses_at s3.b p3) fun s4 h4 => ?_
  have p4 : s4.sp = s.sp - 8 := by rw [(write8_frame _ _ _ _ h4).1]; exact p3
  refine Accesses_then (as := [s.sp - 7]) (write8_accesses_at s4.a (by rw [p4]; bv_omega)) fun s5 h5 => ?_
  have p5 : s5.sp = s.sp - 8 := by rw [(write8_frame _ _ _ _ h5).1]; exact p4
  exact push8_accesses s5.ccr (by rw [p5]; bv_omega)

/-- The nine bytes that RTI reads, in the order of `frameReads` (R422). -/
theorem returnFromException_accesses (s : State) : s.Accesses .read (frameReads s.sp) id s.returnFromException := by
  obtain ⟨-, u4, u6, u8, -⟩ := frame_up s.sp
  rw [frameReads, ← u4, ← u6, ← u8]
  refine Accesses_bind (as := [s.sp]) (read8_accesses s _) fun (v, s1) _ => ?_
  refine Accesses_of_cfg (u := s1.loadCcr v) rfl ?_
  refine Accesses_bind (as := [s.sp + 1]) (read8_accesses _ _) fun (vb, s2) _ => ?_
  refine Accesses_bind (as := [s.sp + 2]) (read8_accesses s2 _) fun (va, s3) _ => ?_
  refine Accesses_bind (as := [s.sp + 3, s.sp + 3 + 1]) (read16_accesses s3 _) fun (vx, s4) _ => ?_
  refine Accesses_bind (as := [s.sp + 7, s.sp + 7 + 1]) (read16_accesses s4 _) fun (t, s5) _ => ?_
  exact Accesses_bind (as := [s.sp + 5, s.sp + 5 + 1]) (read16_accesses s5 _) fun (vy, s6) _ => Accesses_ok rfl

/-! ## Instructions stop as their operations do -/

/-- If the operation stops, `o` is that stop. -/
def StopsAs {α : Type} (x : Res α) (o : Out) : Prop := ∀ e, x = .error e → o = outcome (.error e)

/-- A meaning stops as its first operation does. -/
theorem StopsAs_bind {α : Type} (x : Res α) (f : α → Res State) : StopsAs x (outcome (x >>= f)) := by
  rintro e rfl
  rfl

/-- A meaning stops as its first two operations do. -/
theorem StopsAs_bind_bind {α β : Type} (x : Res α) (f : α → Res β) (g : α → β → Res State) :
    StopsAs (x >>= f) (outcome (x >>= fun a => f a >>= g a)) := by
  intro e h
  cases x with
  | error e' =>
    cases h
    rfl
  | ok a =>
    rw [ok_bind] at h ⊢
    rw [h, error_bind]

/-- What stops as an operation does stops as the first part of it does. -/
theorem StopsAs_of_bind {α β : Type} {x : Res α} {f : α → Res β} {o : Out} (h : StopsAs (x >>= f) o) : StopsAs x o := by
  rintro e rfl
  exact h e rfl

theorem StopsAs_refuseIf {α : Type} {x : Res α} {b : Bool} {r : Refusal} {go : Res State} (hb : b = false)
    (h : StopsAs x (outcome go)) : StopsAs x (outcome (refuseIf b r go)) := by
  rw [hb, refuseIf_false]
  exact h

section
variable {s : State}

/-! ### Readers of an operand -/

theorem load16_stopsAs {r : Reg16} {op : Src16} (ho : overlaps (src16Auto op) (reg16Auto r) = false) :
    StopsAs (s.opnd16 op) (load16 r op s) := StopsAs_refuseIf ho (StopsAs_bind _ _)

theorem cmpMem16_stopsAs {r : Reg16} {op : Src16} (ho : overlaps (src16Auto op) (reg16Auto r) = false) :
    StopsAs (s.opnd16 op) (cmpMem16 r op s) := StopsAs_refuseIf ho (StopsAs_bind _ _)

/-- Every instruction with an 8-bit operand stops as its operand does (R171, R241). -/
theorem byteReader_stopsAs {f : Src8 → Instr} (hf : f ∈ byteReaders) (op : Src8) :
    StopsAs (s.opnd8 op) (exec (f op) s) := by
  fin_cases hf <;> exact StopsAs_bind _ _

/-- Every instruction with a 16-bit operand stops as its operand does, but for the overlaps of R152. -/
theorem wordReader_stopsAs {f : Src16 → Instr} (hf : f ∈ wordReaders) {op : Src16} (ho : autoOverlap (f op) = false) :
    StopsAs (s.opnd16 op) (exec (f op) s) := by
  fin_cases hf
  · exact load16_stopsAs (overlaps_none _)
  · exact load16_stopsAs (r := .x) ho
  · exact load16_stopsAs (r := .y) ho
  · exact load16_stopsAs (r := .sp) ho
  · exact cmpMem16_stopsAs (overlaps_none _)
  · exact cmpMem16_stopsAs (r := .x) ho
  · exact cmpMem16_stopsAs (r := .y) ho
  · exact cmpMem16_stopsAs (r := .sp) ho
  · exact StopsAs_bind _ _
  · exact StopsAs_bind _ _

/-- A read-modify-write stops as the read of its operand does (R245). -/
theorem modify8_stopsAs (f : State → Byte → Byte × State) (m : Mem) :
    StopsAs (s.opnd8 (.mem m)) (outcome (modify8 f m s)) :=
  StopsAs_bind_bind (s.ea m) (fun p => p.2.read8 p.1) fun p q => (f q.2 q.1).2.write8 p.1 (f q.2 q.1).1

theorem modifyBits_stopsAs {g : Byte → Byte} {m : Mem} (hp : memOnPc m = false) :
    StopsAs (s.opnd8 (.mem m)) (modifyBits g m s) := StopsAs_refuseIf hp (modify8_stopsAs _ m)

theorem branchOnBits_stopsAs {test : Byte → Bool} {m : Mem} {rr : Byte} (hp : memOnPc m = false) :
    StopsAs (s.opnd8 (.mem m)) (branchOnBits test m rr s) := by
  rw [branchOnBits_eq]
  exact StopsAs_refuseIf hp (StopsAs_bind _ _)

/-- Every read-modify-write of a byte is `modify8` with an operation that writes flags only (R245). -/
theorem byteModifier_eq {f : Mem → Instr} (hf : f ∈ byteModifiers) :
    ∃ g, KeepsOp g ∧ ∀ m (s : State), exec (f m) s = outcome (modify8 g m s) := by
  fin_cases hf
  · exact ⟨_, KeepsOp_neg, fun _ _ => rfl⟩
  · exact ⟨_, KeepsOp_com, fun _ _ => rfl⟩
  · exact ⟨_, KeepsOp_inc, fun _ _ => rfl⟩
  · exact ⟨_, KeepsOp_dec, fun _ _ => rfl⟩
  · exact ⟨_, KeepsOp_lsr, fun _ _ => rfl⟩
  · exact ⟨_, KeepsOp_rol, fun _ _ => rfl⟩
  · exact ⟨_, KeepsOp_ror, fun _ _ => rfl⟩
  · exact ⟨_, KeepsOp_asr, fun _ _ => rfl⟩
  · exact ⟨_, KeepsOp_asl, fun _ _ => rfl⟩
  · exact ⟨_, KeepsOp_asl, fun _ _ => rfl⟩

/-- TST and every read-modify-write stop as the read of their operand does (R245, R282). -/
theorem byteExaminer_stopsAs {f : Mem → Instr} (hf : f ∈ .tst :: byteModifiers) (m : Mem) :
    StopsAs (s.opnd8 (.mem m)) (exec (f m) s) := by
  obtain rfl | hf := List.mem_cons.1 hf
  · exact StopsAs_bind_bind (s.ea m) (fun p => p.2.read8 p.1) fun _ q => .ok (q.2.testFlags q.1)
  · obtain ⟨g, -, he⟩ := byteModifier_eq hf
    exact he m s ▸ modify8_stopsAs g m

/-! ### Writers of an operand -/

theorem store8_stopsAs {r : Reg8} {m : Mem} :
    StopsAs (s.ea m >>= fun p => p.2.write8 p.1 (p.2.get8 r)) (store8 r m s) :=
  StopsAs_bind_bind (s.ea m) _ fun _ (u : State) => .ok (u.logicFlags (u.get8 r))

theorem store16_stopsAs {r : Reg16} {m : Mem} (ho : overlaps (memAuto m) (reg16Auto r) = false) :
    StopsAs (s.ea m >>= fun p => p.2.write16 p.1 (p.2.get16 r)) (store16 r m s) :=
  StopsAs_refuseIf ho (StopsAs_bind_bind (s.ea m) _ fun _ (u : State) => .ok (u.logicFlags (u.get16 r)))

/-- STAA, STAB and CLR stop as the write of their byte does (R178, R279). -/
theorem byteWriter_stopsAs {f : Mem → Instr} (hf : f ∈ ([.staa, .stab, .clr] : List (Mem → Instr))) (m : Mem) :
    ∃ v : State → Byte, StopsAs (s.ea m >>= fun p => p.2.write8 p.1 (v p.2)) (exec (f m) s) := by
  fin_cases hf
  · exact ⟨fun u => u.get8 .a, store8_stopsAs⟩
  · exact ⟨fun u => u.get8 .b, store8_stopsAs⟩
  · exact ⟨fun _ => 0x00, StopsAs_bind_bind (s.ea m) _ fun _ (u : State) => .ok u.clearFlags⟩

/-- The 16-bit stores stop as the write of their word does (R178), but for the overlaps of R152. -/
theorem wordWriter_stopsAs {f : Mem → Instr} (hf : f ∈ wordWriters) {m : Mem} (ho : autoOverlap (f m) = false) :
    ∃ v : State → Word, StopsAs (s.ea m >>= fun p => p.2.write16 p.1 (v p.2)) (exec (f m) s) := by
  fin_cases hf
  · exact ⟨fun u => u.get16 .d, store16_stopsAs (overlaps_none _)⟩
  · exact ⟨fun u => u.get16 .x, store16_stopsAs ho⟩
  · exact ⟨fun u => u.get16 .y, store16_stopsAs ho⟩
  · exact ⟨fun u => u.get16 .sp, store16_stopsAs ho⟩

/-- JSR stops as the push of its return address does (R395), but for the overlap of R152. -/
theorem jsr_stopsAs {m : Mem} (ho : autoOverlap (.jsr m) = false) :
    StopsAs (s.ea m >>= fun p => p.2.push16 p.2.pc) (exec (.jsr m) s) :=
  StopsAs_refuseIf ho (StopsAs_bind_bind (s.ea m) _ fun p (u : State) => .ok (u.jump p.1))

/-- Every instruction with a memory operand computes its address first (R141). -/
theorem addressed_stopsAs {f : Mem → Instr}
    (hf : f ∈ .staa :: .stab :: .clr :: .tst :: .jmp :: .jsr :: (wordWriters ++ byteModifiers)) {m : Mem}
    (ho : autoOverlap (f m) = false) : StopsAs (s.ea m) (exec (f m) s) := by
  simp only [List.mem_cons, List.mem_append] at hf
  rcases hf with rfl | rfl | rfl | rfl | rfl | rfl | hf | hf
  · exact StopsAs_bind _ _
  · exact StopsAs_bind _ _
  · exact StopsAs_bind _ _
  · exact StopsAs_bind _ _
  · exact StopsAs_bind _ _
  · exact StopsAs_of_bind (jsr_stopsAs ho)
  · obtain ⟨_, h⟩ := wordWriter_stopsAs hf ho
    exact StopsAs_of_bind h
  · obtain ⟨g, -, he⟩ := byteModifier_eq hf
    exact he m s ▸ StopsAs_bind _ _

/-! ### Moves -/

theorem movb_eq {src : Src8} {dst : Mem} (hp : pcTrailing (.movb src dst) = false)
    (ho : autoOverlap (.movb src dst) = false) : exec (.movb src dst) s =
      outcome (s.opnd8 src >>= fun p => p.2.ea dst >>= fun q => q.2.write8 q.1 p.1) := by
  show outcome (refuseIf (pcTrailing (.movb src dst)) _ (refuseIf (autoOverlap (.movb src dst)) _ _)) = _
  rw [hp, ho]
  rfl

theorem movw_eq {src : Src16} {dst : Mem} (hp : pcTrailing (.movw src dst) = false)
    (ho : autoOverlap (.movw src dst) = false) : exec (.movw src dst) s =
      outcome (s.opnd16 src >>= fun p => p.2.ea dst >>= fun q => q.2.write16 q.1 p.1) := by
  show outcome (refuseIf (pcTrailing (.movw src dst)) _ (refuseIf (autoOverlap (.movw src dst)) _ _)) = _
  rw [hp, ho]
  rfl

end

/-! ## Operands that stop -/

theorem StopsAt_of_unadmitted {s : State} {k : Access} {a : Word} (h : s.admits k a = false) : s.StopsAt k [a] a :=
  ⟨[], [], rfl, List.forall_mem_nil _, h⟩

/-- An access at an effective address stops where it is not admitted. -/
theorem ea_bind_stops {α : Type} {s s1 : State} {m : Mem} {ea a : Word} {k : Access} {as : List Word} {st : α → State}
    {f : Word × State → Res α} (hea : s.ea m = .ok (ea, s1)) (hf : s1.Accesses k as st (f (ea, s1)))
    (ha : s.StopsAt k as a) : (s.ea m >>= f) = .error (k.stop a) := by
  rw [hea, ok_bind, hf.stops a (StopsAt_congr (Operand_cfg (ea_frame s m ea s1 hea)) ha)]

theorem opnd8_stops {s s1 : State} {m : Mem} {ea a : Word} (hea : s.ea m = .ok (ea, s1)) (ha : s.StopsAt .read [ea] a) :
    s.opnd8 (.mem m) = .error (.fault (.unadmittedRead a)) := ea_bind_stops hea (read8_accesses s1 ea) ha

theorem opnd16_stops {s s1 : State} {m : Mem} {ea a : Word} (hea : s.ea m = .ok (ea, s1))
    (ha : s.StopsAt .read [ea, ea + 1] a) : s.opnd16 (.mem m) = .error (.fault (.unadmittedRead a)) :=
  ea_bind_stops hea (read16_accesses s1 ea) ha

/-- The pointer of an indirect form stops its address (R150). -/
theorem ea_stops {s : State} {i : Idx} {p a : Word} (ha : s.StopsAt .read [p, p + 1] a)
    (hi : (∃ r n, i = .ind16 r n ∧ p = s.base r + n) ∨ (∃ r, i = .indD r ∧ p = s.base r + s.d)) :
    s.ea (.idx i) = .error (.fault (.unadmittedRead a)) := by
  obtain ⟨r, n, rfl, rfl⟩ | ⟨r, rfl, rfl⟩ := hi <;> exact (read16_accesses s _).stops a ha

/-- A read-modify-write of a byte that can be read and not written stops at the write (R245). -/
theorem modify8_stops {s s1 : State} {f : State → Byte → Byte × State} {m : Mem} {ea : Word} (hf : KeepsOp f)
    (hea : s.ea m = .ok (ea, s1)) (hr : s.admits .read ea = true) (hw : s.admits .write ea = false) :
    modify8 f m s = .error (.fault (.unadmittedWrite ea)) := by
  have hcfg := Operand_cfg (ea_frame s m ea s1 hea)
  obtain ⟨⟨v, u⟩, hread, hu⟩ := (read8_accesses s1 ea).answers (by simpa [admits_congr s s1 _ _ hcfg] using hr)
  have hcfg' : (f u v).2.cfg = s.cfg := ((hf u v).cfg.trans hu).trans hcfg
  rw [← admits_congr s (f u v).2 _ _ hcfg'] at hw
  rw [modify8, hea, ok_bind]
  dsimp only
  rw [hread, ok_bind]
  exact write8_unadmitted (f u v).2 ea _ hw

/-! ## Exceptions that stop -/

theorem takeException_stops_frame {s : State} {vector a : Word} {frame setX : Bool} (hf : frame = true)
    (h : s.StopsAt .write (frameWrites s.sp) a) :
    s.takeException vector frame setX = .error (.fault (.unadmittedWrite a)) := by
  rw [takeException_eq, if_pos hf, (pushFrame_accesses s).stops a h]
  rfl

theorem takeException_stops_vector {s : State} {vector a : Word} {frame setX : Bool}
    (hf : frame = true → ∀ b ∈ frameWrites s.sp, s.admits .write b = true) (h : s.StopsAt .read [vector, vector + 1] a) :
    s.takeException vector frame setX = .error (.fault (.unadmittedRead a)) := by
  obtain ⟨u, hu, hc⟩ : ∃ u, (if frame then s.pushFrame else .ok s) = .ok u ∧ u.cfg = s.cfg := by
    cases frame with
    | false => exact ⟨s, rfl, rfl⟩
    | true => exact (pushFrame_accesses s).answers (hf rfl)
  have hs : State.StopsAt { u with ccr := entryCcr u.ccr setX } .read [vector, vector + 1] a := StopsAt_congr hc h
  rw [takeException_eq, hu, ok_bind, (read16_accesses _ vector).stops a hs]
  rfl

/-- A running CPU that enters an interrupt stops in its frame (R448). -/
theorem enterIrq_stops_frame {s : State} {q : IrqSource} {a : Word} (hs : s.stopped = false)
    (h : s.StopsAt .write (frameWrites s.sp) a) : s.enterIrq q = .error (.fault (.unadmittedWrite a)) :=
  takeException_stops_frame (by rw [hs]; rfl) h

/-- An interrupt, of a running or a stopped CPU, stops at its vector (R448, R449). -/
theorem enterIrq_stops_vector {s : State} {q : IrqSource} {a : Word}
    (hf : s.stopped = false → ∀ b ∈ frameWrites s.sp, s.admits .write b = true)
    (h : s.StopsAt .read [q.vector, q.vector + 1] a) : s.enterIrq q = .error (.fault (.unadmittedRead a)) :=
  takeException_stops_vector (fun hs => hf (by simpa using hs)) h

/-- Reset makes no access but the read of its vector (R480). -/
theorem resetEvent_accesses (s : State) :
    s.Accesses .read [s.cfg.resetVector, s.cfg.resetVector + 1] id s.resetEvent :=
  Accesses_of_cfg (u := { s with
      a := s.cfg.resetRegs.a, b := s.cfg.resetRegs.b, x := s.cfg.resetRegs.x, y := s.cfg.resetRegs.y,
      sp := s.cfg.resetRegs.sp, ccr := s.cfg.resetRegs.ccr, stopped := false }) rfl
    (Accesses_bind (as := [s.cfg.resetVector, s.cfg.resetVector + 1]) (read16_accesses _ _) fun _ _ => Accesses_ok rfl)

theorem step_reset {s : State} (hr : s.popInput.1.reset = true) :
    step s = outcome (State.resetEvent { s with inputs := s.inputs.tail }) := by
  rw [step, boundary_eq s _ _ (popInput_eq s), if_pos hr]

/-! ## Every unadmitted access -/

/-- What stops as an operation does that meets an access which is not admitted is the fault that names it (R63). -/
theorem fault_of_stopsAs {α : Type} {x : Res α} {o : Out} {f : Fault} (h : StopsAs x o) (hx : x = .error (.fault f)) :
    o = .fault f := h _ hx

section
variable {s s1 : State} {m : Mem} {ea a : Word}

/-- The byte that BCLR, BSET, BRCLR and BRSET read (R320, R390). -/
theorem bitInstr_stopsAs (hp : memOnPc m = false) (mm rr : Byte) :
    ∀ i ∈ ([.bclr m mm, .bset m mm, .brclr m mm rr, .brset m mm rr] : List Instr),
      StopsAs (s.opnd8 (.mem m)) (exec i s) := by
  intro i hi
  fin_cases hi
  · exact modifyBits_stopsAs hp
  · exact modifyBits_stopsAs hp
  · exact branchOnBits_stopsAs (test := fun v => v &&& mm == 0) hp
  · exact branchOnBits_stopsAs (test := fun v => ~~~v &&& mm == 0) hp

/-- The byte that BCLR and BSET write (R320). -/
theorem bitModifier_stops (hp : memOnPc m = false) (hea : s.ea m = .ok (ea, s1)) (hr : s.admits .read ea = true)
    (hw : s.admits .write ea = false) (mm : Byte) :
    ∀ i ∈ ([.bclr m mm, .bset m mm] : List Instr), exec i s = .fault (.unadmittedWrite ea) := by
  have hstop : ∀ g, modifyBits g m s = .fault (.unadmittedWrite ea) := fun g => by
    rw [modifyBits, hp, refuseIf_false, modify8_stops (KeepsOp_bit g) hea hr hw, outcome_fault]
  intro i hi
  fin_cases hi <;> exact hstop _

/-- The pointer of an indirect form, read by every instruction with a memory operand (R150). -/
theorem pointer_stops {i : Idx} (hauto : idxAuto i = none) (hea : s.ea (.idx i) = .error (.fault (.unadmittedRead a))) :
    (∀ f ∈ byteReaders, exec (f (.mem (.idx i))) s = .fault (.unadmittedRead a)) ∧
    (∀ f ∈ wordReaders, exec (f (.mem (.idx i))) s = .fault (.unadmittedRead a)) ∧
    (∀ f ∈ .staa :: .stab :: .clr :: .tst :: .jmp :: .jsr :: (wordWriters ++ byteModifiers),
      exec (f (.idx i)) s = .fault (.unadmittedRead a)) := by
  refine ⟨fun f hf => ?_, fun f hf => ?_, fun f hf => ?_⟩
  · exact fault_of_stopsAs (StopsAs_of_bind (byteReader_stopsAs hf (.mem (.idx i)))) hea
  · refine fault_of_stopsAs (StopsAs_of_bind (wordReader_stopsAs hf (op := .mem (.idx i)) ?_)) hea
    fin_cases hf <;> simp [autoOverlap, src16Auto, memAuto, hauto, overlaps]
  · refine fault_of_stopsAs (addressed_stopsAs hf ?_) hea
    fin_cases hf <;> simp [autoOverlap, memAuto, hauto, overlaps]

/-- A byte pushed (R209). -/
theorem pushByte_stops (h : s.StopsAt .write [s.sp - 1] a) :
    ∀ i ∈ ([.psha, .pshb, .pshc] : List Instr), exec i s = .fault (.unadmittedWrite a) := by
  have hstop : ∀ v, pushByte v s = .fault (.unadmittedWrite a) := fun v =>
    congrArg outcome ((push8_accesses v rfl).stops a h)
  intro i hi
  fin_cases hi <;> exact hstop _

/-- A word pushed, by a push or as the return address of BSR (R209, R394). -/
theorem pushWord_stops (h : s.StopsAt .write [s.sp - 2, s.sp - 1] a) :
    (∀ i ∈ ([.pshd, .pshx, .pshy] : List Instr), exec i s = .fault (.unadmittedWrite a)) ∧
    ∀ rr, exec (.bsr rr) s = .fault (.unadmittedWrite a) := by
  have hpush : ∀ v, s.push16 v = .error (.fault (.unadmittedWrite a)) := fun v => (push16_accesses v rfl rfl).stops a h
  refine ⟨fun i hi => ?_, fun rr => fault_of_stopsAs (StopsAs_bind _ _) (hpush s.pc)⟩
  fin_cases hi <;> exact congrArg outcome (hpush _)

/-- The return address of JSR (R395). -/
theorem jsr_stops (h : s.StopsAt .write [s.sp - 2, s.sp - 1] a) (hea : s.ea m = .ok (ea, s1))
    (ho : autoOverlap (.jsr m) = false) : exec (.jsr m) s = .fault (.unadmittedWrite a) := by
  have hsp : s1.sp = s.sp := get16_of_Operand (r := .sp) (ea_frame s m ea s1 hea) ho
  exact fault_of_stopsAs (jsr_stopsAs ho) (ea_bind_stops hea (push16_accesses s1.pc (by rw [hsp]) (by rw [hsp])) h)

/-- A byte pulled (R209). -/
theorem pullByte_stops (h : s.StopsAt .read [s.sp] a) :
    ∀ i ∈ ([.pula, .pulb, .pulc] : List Instr), exec i s = .fault (.unadmittedRead a) := by
  have hpull : s.pull8 = .error (.fault (.unadmittedRead a)) := by
    rw [State.pull8, (read8_accesses s s.sp).stops a h]
    rfl
  intro i hi
  fin_cases hi <;> exact fault_of_stopsAs (StopsAs_bind _ _) hpull

/-- A word pulled, by a pull or as the return address of RTS (R209, R396). -/
theorem pullWord_stops (h : s.StopsAt .read [s.sp, s.sp + 1] a) :
    ∀ i ∈ ([.puld, .pulx, .puly, .rts] : List Instr), exec i s = .fault (.unadmittedRead a) := by
  have hpull : s.pull16 = .error (.fault (.unadmittedRead a)) := by
    rw [State.pull16, (read16_accesses s s.sp).stops a h]
    rfl
  intro i hi
  fin_cases hi <;> exact fault_of_stopsAs (StopsAs_bind _ _) hpull

/-- STOP with S = 0 stops as the push of its frame does (R424). -/
theorem stop_stopsAs (h : s.flag .s = false) : StopsAs s.pushFrame (exec .stop s) := by
  show StopsAs s.pushFrame (execStop s)
  rw [execStop, if_neg (by simp [h])]
  exact StopsAs_bind _ _

end

/-- Settles O12: each operation is a list of accesses, each instruction stops as its first operation does, and nothing else
faults because of `exec_answers`. -/
theorem unadmittedAccess : Obligations.UnadmittedAccess := by
  refine ⟨?readByte, ?writeByte, ?readWord, ?writeWord, ?moveSource, ?movbTarget, ?movwTarget, ?pointer, ?pushByte, ?pushWord,
    ?pullByte, ?pullWord, ?rti, ?frame, ?swiVector, ?interrupt, ?reset, ?fetchPc, ?fetchByte, ?nothingElse⟩
  case readByte =>
    intro s s1 m ea hea ha
    have hop := opnd8_stops hea (StopsAt_of_unadmitted ha)
    exact ⟨fun f hf => fault_of_stopsAs (byteReader_stopsAs hf (.mem m)) hop,
      fun f hf => fault_of_stopsAs (byteExaminer_stopsAs hf m) hop,
      fun hp mm rr i hi => fault_of_stopsAs (bitInstr_stopsAs hp mm rr i hi) hop⟩
  case writeByte =>
    intro s s1 m ea hea ha
    refine ⟨fun f hf => ?_, fun hr f hf => ?_, fun hr hp mm => bitModifier_stops hp hea hr ha mm⟩
    · obtain ⟨v, hv⟩ := byteWriter_stopsAs hf m
      exact fault_of_stopsAs hv (ea_bind_stops hea (write8_accesses s1 ea (v s1)) (StopsAt_of_unadmitted ha))
    · obtain ⟨g, hg, he⟩ := byteModifier_eq hf
      rw [he, modify8_stops hg hea hr ha, outcome_fault]
  case readWord =>
    intro s s1 m ea a hea ha f hf ho
    exact fault_of_stopsAs (wordReader_stopsAs hf ho) (opnd16_stops hea ha)
  case writeWord =>
    intro s s1 m ea a hea ha f hf ho
    obtain ⟨v, hv⟩ := wordWriter_stopsAs hf ho
    exact fault_of_stopsAs hv (ea_bind_stops hea (write16_accesses s1 ea (v s1)) ha)
  case moveSource =>
    intro s s1 m dst ea a hea
    refine ⟨fun hp ho ha => ?_, fun hp ho ha => ?_⟩
    · exact movb_eq hp ho ▸ fault_of_stopsAs (StopsAs_bind _ _) (opnd8_stops hea ha)
    · exact movw_eq hp ho ▸ fault_of_stopsAs (StopsAs_bind _ _) (opnd16_stops hea ha)
  case movbTarget =>
    intro s s1 s2 src dst v ea a hop hea hp ho ha
    have hs := StopsAt_congr (Operand_cfg (opnd8_frame s src v s1 hop)) ha
    rw [movb_eq hp ho, hop, ok_bind]
    exact congrArg outcome (ea_bind_stops hea (write8_accesses s2 ea v) hs)
  case movwTarget =>
    intro s s1 s2 src dst v ea a hop hea hp ho ha
    have hs := StopsAt_congr (Operand_cfg (opnd16_frame s src v s1 hop)) ha
    rw [movw_eq hp ho, hop, ok_bind]
    exact congrArg outcome (ea_bind_stops hea (write16_accesses s2 ea v) hs)
  case pointer =>
    intro s i p a ha hi
    have hauto : idxAuto i = none := by obtain ⟨r, n, rfl, -⟩ | ⟨r, rfl, -⟩ := hi <;> rfl
    exact pointer_stops hauto (ea_stops ha hi)
  case pushByte => exact fun s a h => pushByte_stops h
  case pushWord =>
    intro s a h
    obtain ⟨hpush, hbsr⟩ := pushWord_stops h
    exact ⟨hpush, hbsr, fun m ea s1 hea ho => jsr_stops h hea ho⟩
  case pullByte => exact fun s a h => pullByte_stops h
  case pullWord => exact fun s a h => pullWord_stops h
  case rti => exact fun s a h => congrArg outcome ((returnFromException_accesses s).stops a h)
  case frame =>
    intro s a h
    exact ⟨congrArg outcome (takeException_stops_frame rfl h),
      fun hs => fault_of_stopsAs (stop_stopsAs hs) ((pushFrame_accesses s).stops a h)⟩
  case swiVector => exact fun s a hf h => congrArg outcome (takeException_stops_vector (fun _ => hf) h)
  case interrupt =>
    intro s q a hr hq
    rw [step_enterIrq hr hq]
    exact ⟨fun hs h => congrArg outcome
        (enterIrq_stops_frame (s := { s with inputs := s.inputs.tail }) hs (StopsAt_congr rfl h)),
      fun hf h => congrArg outcome
        (enterIrq_stops_vector (s := { s with inputs := s.inputs.tail }) hf (StopsAt_congr rfl h))⟩
  case reset =>
    intro s a hr h
    rw [step_reset hr]
    have hs : State.StopsAt { s with inputs := s.inputs.tail } .read [s.cfg.resetVector, s.cfg.resetVector + 1] a :=
      StopsAt_congr rfl h
    exact congrArg outcome ((resetEvent_accesses _).stops a hs)
  case fetchPc =>
    intro s hq ha
    rw [show s.pc = s.pc + BitVec.ofNat 16 0 by simp] at ha ⊢
    exact step_stop_at_pc hq (fetchByte_unadmitted ha)
  case fetchByte =>
    rintro s bytes i k a hq hd hk hc rfl ha
    exact step_stop_at hq hd hk hc (fetchByte_unadmitted ha)
  case nothingElse => exact fun i s f h => (exec_answers i s).fault f h

end Sys2Proof.Machine
end

section
/-! PROOFS. What each reader of the decoder reads, said once as an equivalence: which bytes, and as what (R90 to R115). The
round trips between decoder and encoder follow from these. -/

namespace Sys2Proof

/-! ## Readers and what they read -/

/-- The reader `t` reads the bytes `enc v` as `mk v`, for every `v` that is `ok`, and reads nothing else. -/
def Codec {α β : Type} (t : Take α) (mk : β → α) (enc : β → List Byte) (ok : β → Prop) : Prop :=
  ∀ bs x rest, t bs = .ok (x, rest) ↔ ∃ v, ok v ∧ bs = enc v ++ rest ∧ x = mk v

/-- One reader after another. -/
theorem Codec_bind {α β γ δ : Type} {t : Take α} {mk : β → α} {enc : β → List Byte} {ok : β → Prop}
    {u : α → Take γ} {mk' : α → δ → γ} {enc' : δ → List Byte} {ok' : δ → Prop} (ht : Codec t mk enc ok)
    (hu : ∀ x, Codec (u x) (mk' x) enc' ok') :
    Codec (fun bs => t bs >>= fun p => u p.1 p.2) (fun v : β × δ => mk' (mk v.1) v.2) (fun v => enc v.1 ++ enc' v.2)
      fun v => ok v.1 ∧ ok' v.2 := by
  intro bs y rest
  dsimp only
  constructor
  · intro h
    match hb : t bs, h with
    | .ok (x, mid), h =>
      obtain ⟨v, hv, rfl, rfl⟩ := (ht bs x mid).1 hb
      obtain ⟨w, hw, rfl, rfl⟩ := (hu (mk v) mid y rest).1 h
      exact ⟨(v, w), ⟨hv, hw⟩, (List.append_assoc ..).symm, rfl⟩
    | .error _, h => cases h
  · rintro ⟨⟨v, w⟩, ⟨hv, hw⟩, rfl, rfl⟩
    rw [List.append_assoc, (ht _ (mk v) (enc' w ++ rest)).2 ⟨v, hv, rfl, rfl⟩]
    exact (hu (mk v) _ _ rest).2 ⟨w, hw, rfl, rfl⟩

/-- What is read, put into a constructor. -/
theorem Codec_map {α β γ : Type} {t : Take α} {mk : β → α} {enc : β → List Byte} {ok : β → Prop}
    (g : α → γ) (ht : Codec t mk enc ok) :
    Codec (fun bs => t bs >>= fun p => .ok (g p.1, p.2)) (fun v => g (mk v)) enc ok := by
  intro bs y rest
  dsimp only
  constructor
  · intro h
    match hb : t bs, h with
    | .ok (x, mid), h =>
      obtain ⟨v, hv, rfl, rfl⟩ := (ht bs x mid).1 hb
      obtain ⟨rfl, rfl⟩ := Prod.mk.inj (Except.ok.inj h)
      exact ⟨v, hv, rfl, rfl⟩
    | .error _, h => cases h
  · rintro ⟨v, hv, rfl, rfl⟩
    rw [(ht _ (mk v) rest).2 ⟨v, hv, rfl, rfl⟩]
    rfl

/-! ## Bytes and words -/

theorem takeByte_codec : Codec takeByte id (fun b => [b]) fun _ => True := by
  intro bs b rest
  cases bs with
  | nil => exact ⟨nofun, fun ⟨_, _, h, _⟩ => absurd h nofun⟩
  | cons c cs => simp [takeByte, eq_comm]

theorem wordBytes_mkWord (hi lo : Byte) : wordBytes (mkWord hi lo) = [hi, lo] := by
  have hhi : hiByte (mkWord hi lo) = hi := BitVec.extractLsb'_append_eq_left
  have hlo : loByte (mkWord hi lo) = lo := BitVec.extractLsb'_append_eq_right
  rw [wordBytes, hhi, hlo]

theorem takeWord_codec : Codec takeWord id wordBytes fun _ => True := by
  intro bs w rest
  constructor
  · intro h
    match bs, h with
    | hi :: lo :: bs, h =>
      obtain ⟨rfl, rfl⟩ := Prod.mk.inj (Except.ok.inj h)
      exact ⟨mkWord hi lo, trivial, (wordBytes_mkWord hi lo).symm ▸ rfl, rfl⟩
  · rintro ⟨w, -, rfl, rfl⟩
    exact takeWord_wordBytes w rest

/-! ## Indexed operands (R100 to R107) -/

/-- An `xb` with bit 5 clear is its base field and its 5-bit offset (R102). -/
theorem xb_of_ofs5 (xb : Byte) (h5 : xb.getLsbD 5 = false) :
    (Base.ofCode (xb.extractLsb' 6 2)).code ++ (0#1 : BitVec 1) ++ xb.extractLsb' 0 5 = xb := by
  revert xb
  decide

/-- An `xb` with bit 5 set whose register field names X, Y or SP is that register, `p` and `nnnn` (R103). -/
theorem xb_of_auto (xb : Byte) (r : AutoReg) (h5 : xb.getLsbD 5 = true) (hr : AutoReg.ofCode (xb.extractLsb' 6 2) = some r) :
    r.code ++ (1#1 : BitVec 1) ++ bit (xb.getLsbD 4) ++ xb.extractLsb' 0 4 = xb := by
  revert xb
  cases r <;> decide

/-- An `xb` of the remaining classes is `111`, its base field and the three bits of the class (R104 to R106). -/
theorem xb_of_class (xb : Byte) (h5 : xb.getLsbD 5 = true) (hr : AutoReg.ofCode (xb.extractLsb' 6 2) = none) :
    (7#3 : BitVec 3) ++ (Base.ofCode (xb.extractLsb' 3 2)).code ++ xb.extractLsb' 0 3 = xb := by
  revert xb
  decide

/-- The sign of a 9-bit offset is the lowest bit of the class field (R104). -/
theorem xb_sign (xb : Byte) : xb.extractLsb' 0 1 = (xb.extractLsb' 0 3).extractLsb' 0 1 := by
  revert xb
  decide

theorem bitVec3_cases (c : BitVec 3) : c = 0 ∨ c = 1 ∨ c = 2 ∨ c = 3 ∨ c = 4 ∨ c = 5 ∨ c = 6 ∨ c = 7 := by
  revert c
  decide

/-- The fields of a 9-bit offset put together from its sign and its low byte (R97, R104). -/
theorem sign_append_low (sign : BitVec 1) (low : Byte) :
    (sign ++ low).extractLsb' 8 1 = sign ∧ (sign ++ low).extractLsb' 0 8 = low :=
  ⟨BitVec.extractLsb'_append_eq_left, BitVec.extractLsb'_append_eq_right⟩

/-- A 9-bit offset is its sign and its low byte (R97). -/
theorem rel_fields (rel : BitVec 9) : rel.extractLsb' 8 1 ++ rel.extractLsb' 0 8 = rel := by
  rw [BitVec.extractLsb'_append_extractLsb'_eq_extractLsb' (by rfl)]
  exact BitVec.extractLsb'_eq_self

/-- A 9-bit offset is read as its sign, the lowest bit of the class field `c`, and its low byte (R104). -/
theorem eq_encode_of_ofs9 {bs rest : List Byte} {i : Idx} {base : Base} {c : BitVec 3} (hc : c = 0 ∨ c = 1)
    (h : (takeByte bs >>= fun p => .ok (Idx.ofs9 base (c.extractLsb' 0 1 ++ p.1), p.2)) = .ok (i, rest)) :
    ((7#3 : BitVec 3) ++ base.code ++ c) :: bs = i.encode ++ rest := by
  have hxb : (7#3 : BitVec 3) ++ base.code ++ (0#2 : BitVec 2) ++ c.extractLsb' 0 1 =
      (7#3 : BitVec 3) ++ base.code ++ c := by
    rcases hc with rfl | rfl <;> cases base <;> decide
  obtain ⟨ff, -, rfl, rfl⟩ := (Codec_map (fun ff => Idx.ofs9 base (c.extractLsb' 0 1 ++ ff)) takeByte_codec _ _ _).1 h
  obtain ⟨hsign, hff⟩ := sign_append_low (c.extractLsb' 0 1) ff
  dsimp only [id]
  rw [Idx.encode, hsign, hff, hxb]
  rfl

/-- What an indexed operand reads is what its encoding starts with. -/
theorem eq_encode_of_takeIdx {bs rest : List Byte} {i : Idx} (h : takeIdx bs = .ok (i, rest)) : bs = i.encode ++ rest := by
  match bs, h with
  | xb :: bs, h =>
    simp only [takeIdx] at h
    split at h
    next h5 =>
      cases h
      simp only [Idx.encode, xb_of_ofs5 xb h5, List.singleton_append]
    next h5 =>
      rw [Bool.not_eq_false] at h5
      split at h
      next r hr =>
        cases h
        simp only [Idx.encode, xb_of_auto xb r h5 hr, List.singleton_append]
      next hr =>
        have hxb := xb_of_class xb h5 hr
        rw [xb_sign] at h
        generalize xb.extractLsb' 0 3 = c, Base.ofCode (xb.extractLsb' 3 2) = base at h hxb
        subst hxb
        obtain rfl | rfl | rfl | rfl | rfl | rfl | rfl | rfl := bitVec3_cases c
        · exact eq_encode_of_ofs9 (.inl rfl) h
        · exact eq_encode_of_ofs9 (.inr rfl) h
        · obtain ⟨w, -, rfl, rfl⟩ := (Codec_map (Idx.ofs16 base) takeWord_codec _ _ _).1 h
          rfl
        · obtain ⟨w, -, rfl, rfl⟩ := (Codec_map (Idx.ind16 base) takeWord_codec _ _ _).1 h
          rfl
        all_goals
          cases h
          cases base <;> rfl

/-- An indexed operand of any class (R107(a)). -/
theorem takeIdx_codec : Codec takeIdx id Idx.encode fun _ => True := by
  intro bs i rest
  dsimp only
  constructor
  · exact fun h => ⟨i, trivial, eq_encode_of_takeIdx h, rfl⟩
  · rintro ⟨i, -, rfl, rfl⟩
    exact takeIdx_encode i rest

/-- The class of the post-byte is the class of what is read (R100, R124). -/
theorem class_of_takeIdx {xb : Byte} {bs rest : List Byte} {i : Idx} (h : takeIdx (xb :: bs) = .ok (i, rest)) :
    xbIndirect xb = i.indirect ∧ xbShort xb = i.short := by
  obtain ⟨xb', tail, hi, hclass⟩ := encode_class i
  have hbs := eq_encode_of_takeIdx h
  rw [hi] at hbs
  exact (List.cons.inj hbs).1 ▸ hclass

/-- An indexed operand of a non-indirect class (R107(b)). -/
theorem takeIdxDirect_codec : Codec takeIdxDirect id Idx.encode fun i => i.indirect = false := by
  intro bs i rest
  dsimp only
  constructor
  · intro h
    match bs, h with
    | xb :: bs, h =>
      rw [takeIdxDirect] at h
      split at h
      · cases h
      next hx => exact ⟨i, (class_of_takeIdx h).1 ▸ Bool.eq_false_iff.2 hx, eq_encode_of_takeIdx h, rfl⟩
  · rintro ⟨i, hi, rfl, rfl⟩
    exact takeIdxDirect_encode i rest hi

/-- An indexed operand of the class without extension bytes (R107(c)). -/
theorem takeIdxShort_codec : Codec takeIdxShort id Idx.encode fun i => i.short = true := by
  intro bs i rest
  dsimp only
  constructor
  · intro h
    match bs, h with
    | xb :: bs, h =>
      rw [takeIdxShort] at h
      split at h
      next hx => exact ⟨i, (class_of_takeIdx h).2 ▸ hx, eq_encode_of_takeIdx h, rfl⟩
      · cases h
  · rintro ⟨i, hi, rfl, rfl⟩
    exact takeIdxShort_encode i rest hi

/-! ## Operands -/

theorem takeDir_codec : Codec takeDir Mem.dir (fun dd => [dd]) fun _ => True := Codec_map Mem.dir takeByte_codec

theorem takeExt_codec : Codec takeExt Mem.ext wordBytes fun _ => True := Codec_map Mem.ext takeWord_codec

theorem takeMemIdx_codec : Codec takeMemIdx Mem.idx Idx.encode fun _ => True := Codec_map Mem.idx takeIdx_codec

theorem takeMemIdxDirect_codec : Codec takeMemIdxDirect Mem.idx Idx.encode fun i => i.indirect = false :=
  Codec_map Mem.idx takeIdxDirect_codec

theorem takeMemIdxShort_codec : Codec takeMemIdxShort Mem.idx Idx.encode fun i => i.short = true :=
  Codec_map Mem.idx takeIdxShort_codec

theorem takeImm8_codec : Codec takeImm8 Src8.imm (fun ii => [ii]) fun _ => True := Codec_map Src8.imm takeByte_codec

theorem takeImm16_codec : Codec takeImm16 Src16.imm wordBytes fun _ => True := Codec_map Src16.imm takeWord_codec

section
variable {β : Type} {t : Take Mem} {mk : β → Mem} {enc : β → List Byte} {ok : β → Prop}

theorem takeSrc8_codec (ht : Codec t mk enc ok) : Codec (takeSrc8 t) (fun v => .mem (mk v)) enc ok :=
  Codec_map Src8.mem ht

theorem takeSrc16_codec (ht : Codec t mk enc ok) : Codec (takeSrc16 t) (fun v => .mem (mk v)) enc ok :=
  Codec_map Src16.mem ht

end

/-! ## Formats (R91) -/

theorem fInh_codec (i : Instr) : Codec (fInh i) (fun _ : Unit => i) (fun _ => []) fun _ => True := by
  intro bs j rest
  simp [fInh, eq_comm, and_comm]

theorem fByte_codec (f : Byte → Instr) : Codec (fByte f) f (fun b => [b]) fun _ => True := Codec_map f takeByte_codec

theorem fWord_codec (f : Word → Instr) : Codec (fWord f) f wordBytes fun _ => True := Codec_map f takeWord_codec

theorem fLea_codec (f : Idx → Instr) : Codec (fLea f) f Idx.encode fun i => i.indirect = false :=
  Codec_map f takeIdxDirect_codec

section
variable {β : Type} {t : Take Mem} {mk : β → Mem} {enc : β → List Byte} {ok : β → Prop}

theorem fMem_codec (f : Mem → Instr) (ht : Codec t mk enc ok) : Codec (fMem t f) (fun v => f (mk v)) enc ok :=
  Codec_map f ht

theorem fBitMem_codec (f : Mem → Byte → Instr) (ht : Codec t mk enc ok) :
    Codec (fBitMem t f) (fun v : β × Byte => f (mk v.1) v.2) (fun v => enc v.1 ++ [v.2]) fun v => ok v.1 ∧ True :=
  Codec_bind ht fun m => Codec_map (f m) takeByte_codec

theorem fBitBranch_codec (f : Mem → Byte → Byte → Instr) (ht : Codec t mk enc ok) :
    Codec (fBitBranch t f) (fun v : β × Byte × Byte => f (mk v.1) v.2.1 v.2.2) (fun v => enc v.1 ++ [v.2.1, v.2.2])
      fun v => ok v.1 ∧ True ∧ True :=
  Codec_bind ht fun m => Codec_bind takeByte_codec fun mm => Codec_map (f m mm) takeByte_codec

theorem fMoveSrcFirst_codec {α γ : Type} {tSrc : Take α} {mk' : γ → α} {enc' : γ → List Byte} {ok' : γ → Prop}
    (f : α → Mem → Instr) (hs : Codec tSrc mk' enc' ok') (ht : Codec t mk enc ok) :
    Codec (fMoveSrcFirst tSrc t f) (fun v : γ × β => f (mk' v.1) (mk v.2)) (fun v => enc' v.1 ++ enc v.2)
      fun v => ok' v.1 ∧ ok v.2 :=
  Codec_bind hs fun src => Codec_map (f src) ht

theorem fMoveDstFirst_codec {α γ : Type} {tSrc : Take α} {mk' : γ → α} {enc' : γ → List Byte} {ok' : γ → Prop}
    (f : α → Mem → Instr) (hs : Codec tSrc mk' enc' ok') :
    Codec (fMoveDstFirst tSrc f) (fun v : Idx × γ => f (mk' v.2) (.idx v.1)) (fun v => v.1.encode ++ enc' v.2)
      fun v => v.1.short = true ∧ ok' v.2 :=
  Codec_bind takeMemIdxShort_codec fun dst => Codec_map (fun src => f src dst) hs

end

/-! ## Post-bytes of TFR, EXG and the loop primitives (R110, R115) -/

theorem reg_ofCode_eq_some_iff {c : BitVec 3} {r : Reg} : Reg.ofCode c = some r ↔ c = r.code := by
  revert c
  cases r <;> decide

theorem cntr_ofCode_eq_some_iff {c : BitVec 3} {r : Cntr} : Cntr.ofCode c = some r ↔ c = r.code := by
  revert c
  cases r <;> decide

/-- TFR or EXG, by bit 7 of `eb` (R110). -/
def xfer (exchange : Bool) (r1 r2 : Reg) : Instr := if exchange then .exg r1 r2 else .tfr r1 r2

/-- `eb` is its fields, the highest first (R110). -/
theorem eb_fields (eb : Byte) (h3 : eb.getLsbD 3 = false) :
    bit (eb.getLsbD 7) ++ eb.extractLsb' 4 3 ++ (0#1 : BitVec 1) ++ eb.extractLsb' 0 3 = eb := by
  revert eb
  decide

theorem fXfer_xferBytes (e : Bool) (r1 r2 : Reg) (rest : List Byte) :
    fXfer ((bit e ++ r1.code ++ (0#1 : BitVec 1) ++ r2.code) :: rest) = .ok (xfer e r1 r2, rest) := by
  cases e <;> cases r1 <;> cases r2 <;> rfl

/-- `eb` alone, bit 3 clear and both codes a register's (R110). -/
theorem fXfer_codec :
    Codec fXfer (fun v : Bool × Reg × Reg => xfer v.1 v.2.1 v.2.2)
      (fun v => [bit v.1 ++ v.2.1.code ++ (0#1 : BitVec 1) ++ v.2.2.code]) fun _ => True := by
  intro bs i rest
  dsimp only
  constructor
  · intro h
    match bs, h with
    | eb :: bs, h =>
      simp only [fXfer] at h
      split at h
      next r1 r2 hr1 hr2 =>
        split at h
        · cases h
        next h3 =>
          cases h
          rw [reg_ofCode_eq_some_iff] at hr1 hr2
          refine ⟨(eb.getLsbD 7, r1, r2), trivial, ?_, rfl⟩
          rw [← hr1, ← hr2, eb_fields eb (Bool.eq_false_iff.2 h3), List.singleton_append]
      · cases h
  · rintro ⟨⟨e, r1, r2⟩, -, rfl, rfl⟩
    exact fXfer_xferBytes e r1 r2 rest

/-- `lb` is its fields, the highest first (R115). -/
theorem lb_fields (lb : Byte) (h3 : lb.getLsbD 3 = false) :
    lb.extractLsb' 5 3 ++ lb.extractLsb' 4 1 ++ (0#1 : BitVec 1) ++ lb.extractLsb' 0 3 = lb := by
  revert lb
  decide

/-- The fields of a `lb` put together from them (R115). -/
theorem lb_of_fields (op : BitVec 3) (sign : BitVec 1) (c : Cntr) :
    (op ++ sign ++ (0#1 : BitVec 1) ++ c.code).extractLsb' 5 3 = op ∧
      (op ++ sign ++ (0#1 : BitVec 1) ++ c.code).extractLsb' 4 1 = sign ∧
      (op ++ sign ++ (0#1 : BitVec 1) ++ c.code).getLsbD 3 = false ∧
      (op ++ sign ++ (0#1 : BitVec 1) ++ c.code).extractLsb' 0 3 = c.code := by
  revert op sign
  cases c <;> decide

theorem fLoop_loopBytes {op : BitVec 3} {f : Cntr → BitVec 9 → Instr} (hf : loopOfCode op = some f) (c : Cntr)
    (rel : BitVec 9) (rest : List Byte) :
    fLoop ((op ++ rel.extractLsb' 8 1 ++ (0#1 : BitVec 1) ++ c.code) :: rel.extractLsb' 0 8 :: rest) =
      .ok (f c rel, rest) := by
  obtain ⟨hop, hsign, h3, hc⟩ := lb_of_fields op (rel.extractLsb' 8 1) c
  simp only [fLoop, hop, hsign, h3, hc, hf, cntr_ofCode_eq_some_iff.2 rfl, Bool.false_eq_true, if_false]
  show Except.ok (f c (rel.extractLsb' 8 1 ++ rel.extractLsb' 0 8), rest) = _
  rw [rel_fields]

/-- `lb` and the low byte of the offset, bit 3 clear and the codes a primitive's and a counter's (R115). -/
theorem fLoop_codec :
    Codec fLoop (fun v : BitVec 3 × (Cntr → BitVec 9 → Instr) × Cntr × BitVec 9 => v.2.1 v.2.2.1 v.2.2.2)
      (fun v => (loopBytes v.1 v.2.2.1 v.2.2.2).tail) fun v => loopOfCode v.1 = some v.2.1 := by
  intro bs i rest
  dsimp only
  constructor
  · intro h
    match bs, h with
    | lb :: bs, h =>
      simp only [fLoop] at h
      split at h
      next f c hf hc =>
        split at h
        · cases h
        next h3 =>
          obtain ⟨rr, -, rfl, rfl⟩ := (Codec_map (fun rr => f c (lb.extractLsb' 4 1 ++ rr)) takeByte_codec _ _ _).1 h
          obtain ⟨hsign, hrr⟩ := sign_append_low (lb.extractLsb' 4 1) rr
          refine ⟨(lb.extractLsb' 5 3, f, c, lb.extractLsb' 4 1 ++ rr), hf, ?_, rfl⟩
          simp only [loopBytes, hsign, hrr, ← cntr_ofCode_eq_some_iff.1 hc, lb_fields lb (Bool.eq_false_iff.2 h3)]
          rfl
      · cases h
  · rintro ⟨⟨op, f, c, rel⟩, hf, rfl, rfl⟩
    exact fLoop_loopBytes hf c rel rest

end Sys2Proof
end

section
/-! PROOFS. What is decoded is an encoding (R107, R126, R127): on each page, whatever a row reads is, with the opcode, the
encoding of a well-formed core instruction. -/

namespace Sys2Proof

/-! ## Rows and maps -/

/-- The bytes are the encoding of the instruction, which is its own core; the table has a row for it if `listed` (R107). -/
structure Encodes (i : Instr) (bytes : List Byte) (listed : Bool) : Prop where
  wellFormed : i.wellFormed = listed
  core : i.core = i
  encode : encode i = bytes

/-- What `f` reads after the opcode bytes `op` is a well-formed core instruction, and with them it is its encoding. -/
def RowSound (op : List Byte) (f : Take Instr) : Prop :=
  ∀ bs i rest, f bs = .ok (i, rest) → i.wellFormed = true ∧ i.core = i ∧ op ++ bs = encode i ++ rest

theorem RowSound_of_codec {β : Type} {op : List Byte} {f : Take Instr} {mk : β → Instr} {enc : β → List Byte}
    {ok : β → Prop} {listed : β → Bool} (hf : Codec f mk enc ok) (h : ∀ v, Encodes (mk v) (op ++ enc v) (listed v))
    (hl : ∀ v, ok v → listed v = true) : RowSound op f := by
  intro bs i rest hi
  obtain ⟨v, hv, rfl, rfl⟩ := (hf bs i rest).1 hi
  obtain ⟨hwf, hcore, henc⟩ := h v
  exact ⟨hwf.trans (hl v hv), hcore, by rw [henc, List.append_assoc]⟩

/-- Every row of the map is sound, on the page that the bytes `pre` select. -/
def PageSound (pre : List Byte) (page : List OpRow) : Prop :=
  ∀ row ∈ page, RowSound (pre ++ [BitVec.ofNat 8 row.1]) row.2

theorem PageSound_nil (pre : List Byte) : PageSound pre [] := List.forall_mem_nil _

theorem PageSound_cons (pre : List Byte) (o : Nat) (f : Take Instr) (p : List OpRow) :
    PageSound pre ((o, f) :: p) ↔ RowSound (pre ++ [BitVec.ofNat 8 o]) f ∧ PageSound pre p := List.forall_mem_cons

theorem PageSound_append (pre : List Byte) (p q : List OpRow) :
    PageSound pre (p ++ q) ↔ PageSound pre p ∧ PageSound pre q := List.forall_mem_append

section
variable {op : List Byte}

theorem fInh_sound {i : Instr} (h : Encodes i op true) : RowSound op (fInh i) :=
  RowSound_of_codec (fInh_codec i) (fun _ => (List.append_nil op).symm ▸ h) fun _ _ => rfl

theorem fByte_sound {f : Byte → Instr} (h : ∀ b, Encodes (f b) (op ++ [b]) true) : RowSound op (fByte f) :=
  RowSound_of_codec (fByte_codec f) h fun _ _ => rfl

theorem fWord_sound {f : Word → Instr} (h : ∀ w, Encodes (f w) (op ++ wordBytes w) true) : RowSound op (fWord f) :=
  RowSound_of_codec (fWord_codec f) h fun _ _ => rfl

theorem fMem_takeDir_sound {f : Mem → Instr} (h : ∀ dd, Encodes (f (.dir dd)) (op ++ [dd]) true) :
    RowSound op (fMem takeDir f) :=
  RowSound_of_codec (fMem_codec f takeDir_codec) h fun _ _ => rfl

theorem fMem_takeExt_sound {f : Mem → Instr} (h : ∀ a, Encodes (f (.ext a)) (op ++ wordBytes a) true) :
    RowSound op (fMem takeExt f) :=
  RowSound_of_codec (fMem_codec f takeExt_codec) h fun _ _ => rfl

theorem fMem_takeMemIdx_sound {f : Mem → Instr} (h : ∀ i : Idx, Encodes (f (.idx i)) (op ++ i.encode) true) :
    RowSound op (fMem takeMemIdx f) :=
  RowSound_of_codec (fMem_codec f takeMemIdx_codec) h fun _ _ => rfl

theorem fLea_sound {f : Idx → Instr} (h : ∀ i : Idx, Encodes (f i) (op ++ i.encode) !i.indirect) :
    RowSound op (fLea f) :=
  RowSound_of_codec (fLea_codec f) h fun i (hi : i.indirect = false) => congrArg not hi

theorem fBitMem_takeDir_sound {f : Mem → Byte → Instr}
    (h : ∀ v : Byte × Byte, Encodes (f (.dir v.1) v.2) (op ++ [v.1, v.2]) true) :
    RowSound op (fBitMem takeDir f) :=
  RowSound_of_codec (fBitMem_codec f takeDir_codec) h fun _ _ => rfl

theorem fBitMem_takeExt_sound {f : Mem → Byte → Instr}
    (h : ∀ v : Word × Byte, Encodes (f (.ext v.1) v.2) (op ++ (wordBytes v.1 ++ [v.2])) true) :
    RowSound op (fBitMem takeExt f) :=
  RowSound_of_codec (fBitMem_codec f takeExt_codec) h fun _ _ => rfl

theorem fBitMem_takeMemIdxDirect_sound {f : Mem → Byte → Instr}
    (h : ∀ v : Idx × Byte, Encodes (f (.idx v.1) v.2) (op ++ (v.1.encode ++ [v.2])) !v.1.indirect) :
    RowSound op (fBitMem takeMemIdxDirect f) :=
  RowSound_of_codec (fBitMem_codec f takeMemIdxDirect_codec) h fun _ hv => congrArg not hv.1

theorem fBitBranch_takeDir_sound {f : Mem → Byte → Byte → Instr}
    (h : ∀ v : Byte × Byte × Byte, Encodes (f (.dir v.1) v.2.1 v.2.2) (op ++ [v.1, v.2.1, v.2.2]) true) :
    RowSound op (fBitBranch takeDir f) :=
  RowSound_of_codec (fBitBranch_codec f takeDir_codec) h fun _ _ => rfl

theorem fBitBranch_takeExt_sound {f : Mem → Byte → Byte → Instr}
    (h : ∀ v : Word × Byte × Byte, Encodes (f (.ext v.1) v.2.1 v.2.2) (op ++ (wordBytes v.1 ++ [v.2.1, v.2.2])) true) :
    RowSound op (fBitBranch takeExt f) :=
  RowSound_of_codec (fBitBranch_codec f takeExt_codec) h fun _ _ => rfl

theorem fBitBranch_takeMemIdxDirect_sound {f : Mem → Byte → Byte → Instr}
    (h : ∀ v : Idx × Byte × Byte,
      Encodes (f (.idx v.1) v.2.1 v.2.2) (op ++ (v.1.encode ++ [v.2.1, v.2.2])) !v.1.indirect) :
    RowSound op (fBitBranch takeMemIdxDirect f) :=
  RowSound_of_codec (fBitBranch_codec f takeMemIdxDirect_codec) h fun _ hv => congrArg not hv.1

end

/-- The codes of the loop primitives are those the encoder writes (R115). -/
theorem loopOfCode_encodes {op : BitVec 3} {f : Cntr → BitVec 9 → Instr} (hf : loopOfCode op = some f) (c : Cntr)
    (rel : BitVec 9) : Encodes (f c rel) (loopBytes op c rel) true := by
  obtain rfl | rfl | rfl | rfl | rfl | rfl | rfl | rfl := bitVec3_cases op <;> cases hf <;> exact ⟨rfl, rfl, rfl⟩

/-- TFR and EXG (R110). -/
theorem fXfer_sound : RowSound [0xB7] fXfer :=
  RowSound_of_codec fXfer_codec (listed := fun _ => true)
    (fun | (true, _, _) => ⟨rfl, rfl, rfl⟩ | (false, _, _) => ⟨rfl, rfl, rfl⟩) fun _ _ => rfl

/-- The loop primitives (R115). -/
theorem fLoop_sound : RowSound [0x04] fLoop := by
  intro bs i rest hi
  obtain ⟨⟨op, f, c, rel⟩, hf, rfl, rfl⟩ := (fLoop_codec bs i rest).1 hi
  obtain ⟨hwf, hcore, henc⟩ := loopOfCode_encodes hf c rel
  exact ⟨hwf, hcore, henc.symm ▸ rfl⟩

/-- The forms of an instruction with an 8-bit operand (R171, R241). -/
theorem rows8_sound {o : Nat} {f : Src8 → Instr} (h : ∀ op, Encodes (f op) (op.encodeOp (BitVec.ofNat 8 o)) true) :
    PageSound [] (rows8 o f) := by
  simp only [rows8, PageSound_cons, BitVec.ofNat_add]
  exact ⟨fByte_sound fun ii => h (.imm ii), fMem_takeDir_sound fun dd => h (.mem (.dir dd)),
    fMem_takeMemIdx_sound fun i => h (.mem (.idx i)), fMem_takeExt_sound fun a => h (.mem (.ext a)), PageSound_nil []⟩

/-- The forms of an instruction with a 16-bit operand (R171, R241). -/
theorem rows16_sound {o : Nat} {f : Src16 → Instr} (h : ∀ op, Encodes (f op) (op.encodeOp (BitVec.ofNat 8 o)) true) :
    PageSound [] (rows16 o f) := by
  simp only [rows16, PageSound_cons, BitVec.ofNat_add]
  exact ⟨fWord_sound fun w => h (.imm w), fMem_takeDir_sound fun dd => h (.mem (.dir dd)),
    fMem_takeMemIdx_sound fun i => h (.mem (.idx i)), fMem_takeExt_sound fun a => h (.mem (.ext a)), PageSound_nil []⟩

/-- The forms of a store (R178). -/
theorem rowsStore_sound {o : Nat} {f : Mem → Instr} (h : ∀ m, Encodes (f m) (storeBytes (BitVec.ofNat 8 o) m) true) :
    PageSound [] (rowsStore o f) := by
  simp only [rowsStore, PageSound_cons, BitVec.ofNat_add]
  exact ⟨fMem_takeDir_sound fun dd => h (.dir dd), fMem_takeMemIdx_sound fun i => h (.idx i),
    fMem_takeExt_sound fun a => h (.ext a), PageSound_nil []⟩

/-- The forms of a one-operand instruction (R245). -/
theorem rowsRmw_sound {n : Nat} {f : Mem → Instr} {onA onB : Instr}
    (h : ∀ m, Encodes (f m) (rmwBytes (BitVec.ofNat 8 n) m) m.notDir) (hA : Encodes onA [0x40 + BitVec.ofNat 8 n] true)
    (hB : Encodes onB [0x50 + BitVec.ofNat 8 n] true) : PageSound [] (rowsRmw n f onA onB) := by
  simp only [rowsRmw, PageSound_cons, BitVec.ofNat_add]
  exact ⟨fInh_sound hA, fInh_sound hB, fMem_takeMemIdx_sound fun i => h (.idx i), fMem_takeExt_sound fun a => h (.ext a),
    PageSound_nil []⟩

/-- Whatever is read on page 1 (R120). -/
theorem page1_sound : PageSound [] page1 := by
  unfold page1
  simp (disch := intros; exact ⟨rfl, rfl, rfl⟩) only [PageSound_append, PageSound_cons, PageSound_nil, rows8_sound,
    rows16_sound, rowsStore_sound, rowsRmw_sound, fInh_sound, fByte_sound, fMem_takeDir_sound, fMem_takeExt_sound,
    fMem_takeMemIdx_sound, fLea_sound, fBitMem_takeDir_sound, fBitMem_takeExt_sound, fBitMem_takeMemIdxDirect_sound,
    fBitBranch_takeDir_sound, fBitBranch_takeExt_sound, fBitBranch_takeMemIdxDirect_sound, and_true, true_and]
  exact ⟨fXfer_sound, fLoop_sound⟩

section
variable {α β : Type} {op : List Byte} {tSrc : Take α} {mk : β → α} {enc : β → List Byte}
  {f : α → Mem → Instr}

/-- The moves whose destination's post-byte comes first (R154). -/
theorem fMoveDstFirst_sound (hs : Codec tSrc mk enc fun _ => True)
    (h : ∀ v : Idx × β, Encodes (f (mk v.2) (.idx v.1)) (op ++ (v.1.encode ++ enc v.2)) v.1.short) :
    RowSound op (fMoveDstFirst tSrc f) := RowSound_of_codec (fMoveDstFirst_codec f hs) h fun _ hv => hv.1

/-- The moves from an immediate or an EXT operand to an EXT one (R154). -/
theorem fMoveSrcFirst_takeExt_sound (hs : Codec tSrc mk enc fun _ => True)
    (h : ∀ v : β × Word, Encodes (f (mk v.1) (.ext v.2)) (op ++ (enc v.1 ++ wordBytes v.2)) true) :
    RowSound op (fMoveSrcFirst tSrc takeExt f) :=
  RowSound_of_codec (fMoveSrcFirst_codec f hs takeExt_codec) h fun _ _ => rfl

end

section
variable {α : Type} {op : List Byte} {tSrc : Take α} {mk : Idx → α} {f : α → Mem → Instr}

/-- The moves from an indexed operand to an EXT one (R154). -/
theorem fMoveSrcFirst_idx_takeExt_sound (hs : Codec tSrc mk Idx.encode fun i => i.short = true)
    (h : ∀ v : Idx × Word, Encodes (f (mk v.1) (.ext v.2)) (op ++ (v.1.encode ++ wordBytes v.2)) (v.1.short && true)) :
    RowSound op (fMoveSrcFirst tSrc takeExt f) :=
  RowSound_of_codec (fMoveSrcFirst_codec f hs takeExt_codec) h fun v hv => (Bool.and_true v.1.short).trans hv.1

/-- The moves between indexed operands (R154). -/
theorem fMoveSrcFirst_idx_idx_sound (hs : Codec tSrc mk Idx.encode fun i => i.short = true)
    (h : ∀ v : Idx × Idx, Encodes (f (mk v.1) (.idx v.2)) (op ++ (v.1.encode ++ v.2.encode)) (v.1.short && v.2.short)) :
    RowSound op (fMoveSrcFirst tSrc takeMemIdxShort f) :=
  RowSound_of_codec (fMoveSrcFirst_codec f hs takeMemIdxShort_codec) h fun _ hv => Bool.and_eq_true_iff.2 hv

end

/-- Whatever is read on page 2 (R121). -/
theorem page2_sound : PageSound [0x18] page2 := by
  unfold page2
  simp (disch := exact ⟨rfl, rfl, rfl⟩) only [PageSound_cons, PageSound_nil, fInh_sound, and_true, true_and]
  exact ⟨fMoveDstFirst_sound takeImm16_codec fun _ => ⟨rfl, rfl, rfl⟩,
    fMoveDstFirst_sound (takeSrc16_codec takeExt_codec) fun _ => ⟨rfl, rfl, rfl⟩,
    fMoveSrcFirst_idx_idx_sound (takeSrc16_codec takeMemIdxShort_codec) fun _ => ⟨rfl, rfl, rfl⟩,
    fMoveSrcFirst_takeExt_sound takeImm16_codec fun _ => ⟨rfl, rfl, rfl⟩,
    fMoveSrcFirst_takeExt_sound (takeSrc16_codec takeExt_codec) fun _ => ⟨rfl, rfl, rfl⟩,
    fMoveSrcFirst_idx_takeExt_sound (takeSrc16_codec takeMemIdxShort_codec) fun _ => ⟨rfl, rfl, rfl⟩,
    fMoveDstFirst_sound takeImm8_codec fun _ => ⟨rfl, rfl, rfl⟩,
    fMoveDstFirst_sound (takeSrc8_codec takeExt_codec) fun _ => ⟨rfl, rfl, rfl⟩,
    fMoveSrcFirst_idx_idx_sound (takeSrc8_codec takeMemIdxShort_codec) fun _ => ⟨rfl, rfl, rfl⟩,
    fMoveSrcFirst_takeExt_sound takeImm8_codec fun _ => ⟨rfl, rfl, rfl⟩,
    fMoveSrcFirst_takeExt_sound (takeSrc8_codec takeExt_codec) fun _ => ⟨rfl, rfl, rfl⟩,
    fMoveSrcFirst_idx_takeExt_sound (takeSrc8_codec takeMemIdxShort_codec) fun _ => ⟨rfl, rfl, rfl⟩⟩

/-- What is read with the row of an opcode is sound. -/
theorem decodeOn_sound {pre : List Byte} {page : List OpRow} (h : PageSound pre page) (op : Byte) :
    RowSound (pre ++ [op]) (decodeOn page pre op) := by
  intro bs i rest hd
  unfold decodeOn at hd
  split at hd
  next f hf =>
    obtain ⟨l₁, l₂, hpage, -⟩ := List.lookup_eq_some_iff.1 hf
    have hrow : RowSound (pre ++ [BitVec.ofNat 8 op.toNat]) f := h (op.toNat, f) (hpage ▸ by simp)
    rw [BitVec.ofNat_toNat, BitVec.setWidth_eq] at hrow
    exact hrow bs i rest ((underOpcode_ok_iff _ _ _).1 hd)
  next => cases hd

/-- Settles O3: the opcode selects a row of one of the two maps, and every row is sound. -/
theorem decodeSound : Obligations.DecodeSound := by
  intro bs rest i hd
  match bs, hd with
  | op :: bs, hd =>
    by_cases h18 : op = 0x18
    · subst h18
      match bs, hd with
      | op2 :: bs, hd => exact decodeOn_sound page2_sound op2 bs i rest hd
    · simp only [decode, h18, if_false] at hd
      exact decodeOn_sound page1_sound op bs i rest hd

end Sys2Proof
end

section
/-! PROOFS. What is encoded decodes (R90, R91, R123, R130): the opcode the encoder writes is that of a row, and the row reads
the operand bytes back. -/

namespace Sys2Proof

/-! ## The forms of each family -/

/-- After the opcode bytes `op` the decoder reads with `f`, and an error names these bytes first (R127). -/
def RowAt (op : List Byte) (f : Take Instr) : Prop := ∀ bs, decode (op ++ bs) = underOpcode op (f bs)

theorem decode_of_codec {β : Type} {op : List Byte} {f : Take Instr} {mk : β → Instr} {enc : β → List Byte}
    {ok : β → Prop} (hrow : RowAt op f) (hf : Codec f mk enc ok) (v : β) (hv : ok v) (rest : List Byte) :
    decode (op ++ enc v ++ rest) = .ok (mk v, rest) := by
  rw [List.append_assoc, hrow, (hf _ _ rest).2 ⟨v, hv, rfl, rfl⟩]
  rfl

section
variable {d e x : Byte} {m : Mem}

/-- The forms of an instruction with EXT and indexed operands only (R245, R393). -/
theorem decode_noDirForms {f : Mem → Instr} (he : RowAt [e] (fMem takeExt f)) (hx : RowAt [x] (fMem takeMemIdx f))
    (hm : m.notDir = true) (rest : List Byte) : decode (m.encodeOp d e x ++ rest) = .ok (f m, rest) := by
  cases m with
  | dir dd => exact absurd hm Bool.false_ne_true
  | ext a => exact decode_of_codec he (fMem_codec f takeExt_codec) a trivial rest
  | idx i => exact decode_of_codec hx (fMem_codec f takeMemIdx_codec) i trivial rest

/-- The forms of an instruction with operands of every mode (R171, R178, R395). -/
theorem decode_memForms {f : Mem → Instr} (hd : RowAt [d] (fMem takeDir f)) (he : RowAt [e] (fMem takeExt f))
    (hx : RowAt [x] (fMem takeMemIdx f)) (m : Mem) (rest : List Byte) :
    decode (m.encodeOp d e x ++ rest) = .ok (f m, rest) := by
  cases m with
  | dir dd => exact decode_of_codec hd (fMem_codec f takeDir_codec) dd trivial rest
  | ext a => exact decode_noDirForms he hx rfl rest
  | idx i => exact decode_noDirForms he hx rfl rest

/-- The forms of BCLR and BSET (R320). -/
theorem decode_bitMemForms {f : Mem → Byte → Instr} (hd : RowAt [d] (fBitMem takeDir f))
    (he : RowAt [e] (fBitMem takeExt f)) (hx : RowAt [x] (fBitMem takeMemIdxDirect f)) (hm : m.notIndirect = true)
    (mm : Byte) (rest : List Byte) : decode (m.encodeOp d e x ++ [mm] ++ rest) = .ok (f m mm, rest) := by
  cases m with
  | dir dd => exact decode_of_codec hd (fBitMem_codec f takeDir_codec) (dd, mm) ⟨trivial, trivial⟩ rest
  | ext a => exact decode_of_codec he (fBitMem_codec f takeExt_codec) (a, mm) ⟨trivial, trivial⟩ rest
  | idx i =>
    exact decode_of_codec hx (fBitMem_codec f takeMemIdxDirect_codec) (i, mm) ⟨Bool.not_eq_true' _ ▸ hm, trivial⟩ rest

/-- The forms of BRCLR and BRSET (R390). -/
theorem decode_bitBranchForms {f : Mem → Byte → Byte → Instr} (hd : RowAt [d] (fBitBranch takeDir f))
    (he : RowAt [e] (fBitBranch takeExt f)) (hx : RowAt [x] (fBitBranch takeMemIdxDirect f)) (hm : m.notIndirect = true)
    (mm rr : Byte) (rest : List Byte) : decode (m.encodeOp d e x ++ [mm, rr] ++ rest) = .ok (f m mm rr, rest) := by
  cases m with
  | dir dd => exact decode_of_codec hd (fBitBranch_codec f takeDir_codec) (dd, mm, rr) ⟨trivial, trivial, trivial⟩ rest
  | ext a => exact decode_of_codec he (fBitBranch_codec f takeExt_codec) (a, mm, rr) ⟨trivial, trivial, trivial⟩ rest
  | idx i =>
    exact decode_of_codec hx (fBitBranch_codec f takeMemIdxDirect_codec) (i, mm, rr)
      ⟨Bool.not_eq_true' _ ▸ hm, trivial, trivial⟩ rest

end

/-- The forms of an instruction with an 8-bit operand (R171, R241), `o` the IMM opcode. -/
theorem decode_src8Forms {o : Byte} {f : Src8 → Instr} (hi : RowAt [o] (fByte fun ii => f (.imm ii)))
    (hd : RowAt [o + 0x10] (fMem takeDir fun m => f (.mem m))) (he : RowAt [o + 0x30] (fMem takeExt fun m => f (.mem m)))
    (hx : RowAt [o + 0x20] (fMem takeMemIdx fun m => f (.mem m))) (op : Src8) (rest : List Byte) :
    decode (op.encodeOp o ++ rest) = .ok (f op, rest) := by
  cases op with
  | imm ii => exact decode_of_codec hi (fByte_codec _) ii trivial rest
  | mem m => exact decode_memForms hd he hx m rest

/-- The forms of an instruction with a 16-bit operand (R171, R241), `o` the IMM opcode. -/
theorem decode_src16Forms {o : Byte} {f : Src16 → Instr} (hi : RowAt [o] (fWord fun jjkk => f (.imm jjkk)))
    (hd : RowAt [o + 0x10] (fMem takeDir fun m => f (.mem m))) (he : RowAt [o + 0x30] (fMem takeExt fun m => f (.mem m)))
    (hx : RowAt [o + 0x20] (fMem takeMemIdx fun m => f (.mem m))) (op : Src16) (rest : List Byte) :
    decode (op.encodeOp o ++ rest) = .ok (f op, rest) := by
  cases op with
  | imm w => exact decode_of_codec hi (fWord_codec _) w trivial rest
  | mem m => exact decode_memForms hd he hx m rest

/-- LEAS, LEAX and LEAY (R185). -/
theorem decode_leaForms {o : Byte} {f : Idx → Instr} (hrow : RowAt [o] (fLea f)) {i : Idx} (hi : (!i.indirect) = true)
    (rest : List Byte) : decode (o :: i.encode ++ rest) = .ok (f i, rest) :=
  decode_of_codec hrow (fLea_codec f) i (Bool.not_eq_true' _ ▸ hi) rest

/-- MOVB, by the modes of its operands; it has none of mode DIR (R194). -/
theorem decode_movb {src : Src8} {dst : Mem} (h : (src.moveOperand && dst.moveOperand) = true)
    (rest : List Byte) : decode (movbBytes src dst ++ rest) = .ok (.movb src dst, rest) := by
  obtain ⟨hs, hd⟩ := Bool.and_eq_true_iff.1 h
  cases dst with
  | dir _ => exact absurd hd Bool.false_ne_true
  | idx d =>
    match src, hs with
    | .imm v, _ =>
      exact decode_of_codec (op := [0x18, 0x08]) (fun _ => rfl) (fMoveDstFirst_codec _ takeImm8_codec) (d, v)
        ⟨hd, trivial⟩ rest
    | .mem (.ext a), _ =>
      exact decode_of_codec (op := [0x18, 0x09]) (fun _ => rfl)
        (fMoveDstFirst_codec _ (takeSrc8_codec takeExt_codec)) (d, a) ⟨hd, trivial⟩ rest
    | .mem (.idx i), hs =>
      exact decode_of_codec (op := [0x18, 0x0A]) (fun _ => rfl)
        (fMoveSrcFirst_codec _ (takeSrc8_codec takeMemIdxShort_codec) takeMemIdxShort_codec) (i, d) ⟨hs, hd⟩ rest
  | ext b =>
    match src, hs with
    | .imm v, _ =>
      exact decode_of_codec (op := [0x18, 0x0B]) (fun _ => rfl)
        (fMoveSrcFirst_codec _ takeImm8_codec takeExt_codec) (v, b) ⟨trivial, trivial⟩ rest
    | .mem (.ext a), _ =>
      exact decode_of_codec (op := [0x18, 0x0C]) (fun _ => rfl)
        (fMoveSrcFirst_codec _ (takeSrc8_codec takeExt_codec) takeExt_codec) (a, b) ⟨trivial, trivial⟩ rest
    | .mem (.idx i), hs =>
      exact decode_of_codec (op := [0x18, 0x0D]) (fun _ => rfl)
        (fMoveSrcFirst_codec _ (takeSrc8_codec takeMemIdxShort_codec) takeExt_codec) (i, b) ⟨hs, trivial⟩ rest

/-- MOVW, by the modes of its operands; it has none of mode DIR (R195). -/
theorem decode_movw {src : Src16} {dst : Mem} (h : (src.moveOperand && dst.moveOperand) = true)
    (rest : List Byte) : decode (movwBytes src dst ++ rest) = .ok (.movw src dst, rest) := by
  obtain ⟨hs, hd⟩ := Bool.and_eq_true_iff.1 h
  cases dst with
  | dir _ => exact absurd hd Bool.false_ne_true
  | idx d =>
    match src, hs with
    | .imm v, _ =>
      exact decode_of_codec (op := [0x18, 0x00]) (fun _ => rfl) (fMoveDstFirst_codec _ takeImm16_codec) (d, v)
        ⟨hd, trivial⟩ rest
    | .mem (.ext a), _ =>
      exact decode_of_codec (op := [0x18, 0x01]) (fun _ => rfl)
        (fMoveDstFirst_codec _ (takeSrc16_codec takeExt_codec)) (d, a) ⟨hd, trivial⟩ rest
    | .mem (.idx i), hs =>
      exact decode_of_codec (op := [0x18, 0x02]) (fun _ => rfl)
        (fMoveSrcFirst_codec _ (takeSrc16_codec takeMemIdxShort_codec) takeMemIdxShort_codec) (i, d) ⟨hs, hd⟩ rest
  | ext b =>
    match src, hs with
    | .imm v, _ =>
      exact decode_of_codec (op := [0x18, 0x03]) (fun _ => rfl)
        (fMoveSrcFirst_codec _ takeImm16_codec takeExt_codec) (v, b) ⟨trivial, trivial⟩ rest
    | .mem (.ext a), _ =>
      exact decode_of_codec (op := [0x18, 0x04]) (fun _ => rfl)
        (fMoveSrcFirst_codec _ (takeSrc16_codec takeExt_codec) takeExt_codec) (a, b) ⟨trivial, trivial⟩ rest
    | .mem (.idx i), hs =>
      exact decode_of_codec (op := [0x18, 0x05]) (fun _ => rfl)
        (fMoveSrcFirst_codec _ (takeSrc16_codec takeMemIdxShort_codec) takeExt_codec) (i, b) ⟨hs, trivial⟩ rest

/-- TFR and EXG (R110). -/
theorem decode_xferBytes (exchange : Bool) (r1 r2 : Reg) (rest : List Byte) :
    decode (xferBytes exchange r1 r2 ++ rest) = .ok (xfer exchange r1 r2, rest) :=
  decode_of_codec (op := [0xB7]) (fun _ => rfl) fXfer_codec (exchange, r1, r2) trivial rest

/-- The loop primitives (R115). -/
theorem decode_loopBytes {op : BitVec 3} {f : Cntr → BitVec 9 → Instr} (hf : loopOfCode op = some f) (c : Cntr)
    (rel : BitVec 9) (rest : List Byte) : decode (loopBytes op c rel ++ rest) = .ok (f c rel, rest) :=
  decode_of_codec (op := [0x04]) (fun _ => rfl) fLoop_codec (op, f, c, rel) hf rest

/-! ## The round trip -/

/-- Settles O2, family by family. In the last case the bytes after the opcode are none, fixed, or one byte read as it stands, and
the decoder runs through. -/
theorem decodeEncode : Obligations.DecodeEncode := by
  intro i rest hwf
  cases i with
  | suba op | cmpa op | sbca op | anda op | bita op | ldaa op | eora op | adca op | oraa op | adda op | subb op | cmpb op
  | sbcb op | andb op | bitb op | ldab op | eorb op | adcb op | orab op | addb op =>
    exact decode_src8Forms (fun _ => rfl) (fun _ => rfl) (fun _ => rfl) (fun _ => rfl) op rest
  | subd op | addd op | cpd op | cpy op | cpx op | cps op | ldd op | ldy op | ldx op | lds op =>
    exact decode_src16Forms (fun _ => rfl) (fun _ => rfl) (fun _ => rfl) (fun _ => rfl) op rest
  | staa m | stab m | std m | sty m | stx m | sts m | jsr m =>
    exact decode_memForms (fun _ => rfl) (fun _ => rfl) (fun _ => rfl) m rest
  | neg m | com m | inc m | dec m | lsr m | rol m | ror m | asr m | asl m | lsl m | clr m | tst m | jmp m =>
    exact decode_noDirForms (fun _ => rfl) (fun _ => rfl) hwf rest
  | leay x | leax x | leas x => exact decode_leaForms (fun _ => rfl) hwf rest
  | movb src dst => exact decode_movb hwf rest
  | movw src dst => exact decode_movw hwf rest
  | tfr r1 r2 => exact decode_xferBytes false r1 r2 rest
  | exg r1 r2 => exact decode_xferBytes true r1 r2 rest
  | bclr m mm | bset m mm => exact decode_bitMemForms (fun _ => rfl) (fun _ => rfl) (fun _ => rfl) hwf mm rest
  | brclr m mm rr | brset m mm rr =>
    exact decode_bitBranchForms (fun _ => rfl) (fun _ => rfl) (fun _ => rfl) hwf mm rr rest
  | dbeq c rel | dbne c rel | tbeq c rel | tbne c rel | ibeq c rel | ibne c rel => exact decode_loopBytes rfl c rel rest
  | _ => rfl

end Sys2Proof
end

section
/-! PROOFS. Single encodings: words of the encoding tables, the unlisted encodings and the step that meets one (R107, R126,
R127, R442); then effective addresses (R141 to R150) and aliases (R123, R130). -/

namespace Sys2Proof

/-! ## Words of the encoding tables -/

/-- Settles O1: each row of the opcode maps is met and its operand bytes are read. -/
theorem specWordsDecode : Obligations.SpecWordsDecode := by
  and_intros <;> rfl

/-! ## Unlisted encodings (R107, R126, R127) -/

/-- A reader that fails at its first part fails so. -/
theorem bind_first_error {α β : Type} {r : Except DecodeError α} {g : α → Except DecodeError β} {e : DecodeError}
    (h : r = .error e) : r >>= g = .error e := h ▸ rfl

/-- A reader that fails after its first part fails so. -/
theorem bind_second_error {α β : Type} {r : Except DecodeError α} {g : α → Except DecodeError β} {a : α}
    {e : DecodeError} (h : r = .ok a) (hg : g a = .error e) : r >>= g = .error e := h ▸ hg

/-- Where a row of page 1 fails, the error names the opcode before the row's own bytes. -/
theorem decode_illegal {op : Byte} {bs shown : List Byte} {f : Take Instr} (hrow : RowAt [op] f)
    (h : f bs = .error (.illegal shown)) : decode (op :: bs) = .error (.illegal (op :: shown)) :=
  (hrow bs).trans (congrArg (underOpcode [op]) h)

/-- Where a row of page 2 fails, the error names both opcode bytes before the row's own. -/
theorem decode_illegal2 {op : Byte} {bs shown : List Byte} {f : Take Instr} (hrow : RowAt [0x18, op] f)
    (h : f bs = .error (.illegal shown)) : decode (0x18 :: op :: bs) = .error (.illegal (0x18 :: op :: shown)) :=
  (hrow bs).trans (congrArg (underOpcode [0x18, op]) h)

/-- An opcode without a row (R126). -/
theorem decodeOn_unlisted {page : List OpRow} {op : Byte} (h : (page.lookup op.toNat).isNone = true) (pre bs : List Byte) :
    decodeOn page pre op bs = .error (.illegal (pre ++ [op])) := by
  rw [decodeOn, Option.isNone_iff_eq_none.1 h]

theorem fXfer_illegal {eb : Byte} (h : eb.getLsbD 3 = true ∨ eb.extractLsb' 4 3 = 3 ∨ eb.extractLsb' 0 3 = 3)
    (bs : List Byte) : fXfer (eb :: bs) = .error (.illegal [eb]) := by
  have hcode : ∀ r : Reg, r.code ≠ 3 := by rintro ⟨⟩ <;> decide
  simp only [fXfer]
  split
  next r1 r2 hr1 hr2 =>
    rw [reg_ofCode_eq_some_iff] at hr1 hr2
    obtain h3 | hc | hc := h
    · rw [if_pos h3]
    · exact absurd (hr1.symm.trans hc) (hcode r1)
    · exact absurd (hr2.symm.trans hc) (hcode r2)
  next => rfl

theorem fLoop_illegal {lb : Byte}
    (h : lb.getLsbD 3 = true ∨ 6 ≤ (lb.extractLsb' 5 3).toNat ∨ lb.extractLsb' 0 3 = 2 ∨ lb.extractLsb' 0 3 = 3)
    (bs : List Byte) : fLoop (lb :: bs) = .error (.illegal [lb]) := by
  have hprim : ∀ c : BitVec 3, 6 ≤ c.toNat → (loopOfCode c).isNone = true := by decide
  have hcode : ∀ c : Cntr, c.code ≠ 2 ∧ c.code ≠ 3 := by rintro ⟨⟩ <;> decide
  simp only [fLoop]
  split
  next f c hf hc =>
    rw [cntr_ofCode_eq_some_iff] at hc
    obtain h3 | h5 | h2 | h2 := h
    · rw [if_pos h3]
    · exact absurd (hf ▸ hprim _ h5) nofun
    · exact absurd (hc.symm.trans h2) (hcode c).1
    · exact absurd (hc.symm.trans h2) (hcode c).2
  next => rfl

theorem takeIdxDirect_illegal {xb : Byte} (h : xb &&& 0xE3 = 0xE3) (bs : List Byte) :
    takeIdxDirect (xb :: bs) = .error (.illegal [xb]) := if_pos (beq_iff_eq.2 h)

/-- The classes of `xb` outside IDX, as the table of R100 writes them. -/
theorem xbShort_eq_false_iff {xb : Byte} : xbShort xb = false ↔ xb &&& 0xE4 = 0xE0 ∨ xb &&& 0xE7 = 0xE7 := by
  simp [xbShort, Decidable.imp_iff_not_or]

theorem takeIdxShort_illegal {xb : Byte} (h : xb &&& 0xE4 = 0xE0 ∨ xb &&& 0xE7 = 0xE7) (bs : List Byte) :
    takeIdxShort (xb :: bs) = .error (.illegal [xb]) := if_neg (Bool.eq_false_iff.1 (xbShort_eq_false_iff.2 h))

theorem takeIdxShort_cons {xb : Byte} (h : ¬(xb &&& 0xE4 = 0xE0 ∨ xb &&& 0xE7 = 0xE7)) :
    ∃ i, ∀ bs, takeIdxShort (xb :: bs) = .ok (i, bs) := by
  rw [← xbShort_eq_false_iff, Bool.not_eq_false] at h
  obtain ⟨i, hi⟩ | ⟨hshort, -⟩ := takeIdx_cons xb
  · exact ⟨i, fun bs => (if_pos h).trans (hi bs)⟩
  · exact absurd (h.symm.trans hshort) nofun

section
variable {bs : List Byte} {e : DecodeError}

theorem fLea_error {f : Idx → Instr} (h : takeIdxDirect bs = .error e) : fLea f bs = .error e := bind_first_error h

theorem fBitMem_error {f : Mem → Byte → Instr} (h : takeIdxDirect bs = .error e) :
    fBitMem takeMemIdxDirect f bs = .error e := bind_first_error (bind_first_error h)

theorem fBitBranch_error {f : Mem → Byte → Byte → Instr} (h : takeIdxDirect bs = .error e) :
    fBitBranch takeMemIdxDirect f bs = .error e := bind_first_error (bind_first_error h)

theorem fMoveDstFirst_error {α : Type} {tSrc : Take α} {f : α → Mem → Instr} (h : takeIdxShort bs = .error e) :
    fMoveDstFirst tSrc f bs = .error e := bind_first_error (bind_first_error h)

theorem takeSrc8_error (h : takeIdxShort bs = .error e) : takeSrc8 takeMemIdxShort bs = .error e :=
  bind_first_error (bind_first_error h)

theorem takeSrc16_error (h : takeIdxShort bs = .error e) : takeSrc16 takeMemIdxShort bs = .error e :=
  bind_first_error (bind_first_error h)

theorem fMoveSrcFirst_src_error {α : Type} {tSrc : Take α} {t : Take Mem} {f : α → Mem → Instr}
    (h : tSrc bs = .error e) : fMoveSrcFirst tSrc t f bs = .error e := bind_first_error h

theorem fMoveSrcFirst_dst_error {α : Type} {tSrc : Take α} {f : α → Mem → Instr} {src : α} {mid : List Byte}
    (hs : tSrc bs = .ok (src, mid)) (h : takeIdxShort mid = .error e) :
    fMoveSrcFirst tSrc takeMemIdxShort f bs = .error e :=
  bind_second_error hs (bind_first_error (bind_first_error h))

end

/-- Settles O4: an opcode without a row, and each row's own check of its post-bytes. -/
theorem unlistedEncodings : Obligations.UnlistedEncodings := by
  refine ⟨?page1, ?page2, ?xfer, ?loop, ?direct, ?short, ?second⟩
  case page1 =>
    intro op bs hop
    have hnone : ∀ op ∈ ([0x00, 0x01, 0x0A, 0x11, 0x13, 0x21, 0x3C, 0x3E, 0x4A, 0x4B] : List Byte),
        op ≠ 0x18 ∧ (page1.lookup op.toNat).isNone = true := by decide
    obtain ⟨h18, h⟩ := hnone op hop
    exact (if_neg h18).trans (decodeOn_unlisted h [] bs)
  case page2 =>
    intro op bs hop
    have hnone : (page2.lookup op.toNat).isNone = true := by
      revert op
      decide
    exact decodeOn_unlisted hnone [0x18] bs
  case xfer => exact fun eb bs h => decode_illegal (fun _ => rfl) (fXfer_illegal h bs)
  case loop => exact fun lb bs h => decode_illegal (fun _ => rfl) (fLoop_illegal h bs)
  case direct =>
    intro op xb bs hop hxb
    have h := takeIdxDirect_illegal hxb bs
    simp only [List.mem_cons, List.not_mem_nil, or_false] at hop
    obtain rfl | rfl | rfl | rfl | rfl | rfl | rfl := hop
    · exact decode_illegal (fun _ => rfl) (fBitMem_error h)
    · exact decode_illegal (fun _ => rfl) (fBitMem_error h)
    · exact decode_illegal (fun _ => rfl) (fBitBranch_error h)
    · exact decode_illegal (fun _ => rfl) (fBitBranch_error h)
    all_goals exact decode_illegal (fun _ => rfl) (fLea_error h)
  case short =>
    intro op xb bs hop hxb
    have h := takeIdxShort_illegal hxb bs
    simp only [List.mem_cons, List.not_mem_nil, or_false] at hop
    obtain rfl | rfl | rfl | rfl | rfl | rfl | rfl | rfl := hop
    · exact decode_illegal2 (fun _ => rfl) (fMoveDstFirst_error h)
    · exact decode_illegal2 (fun _ => rfl) (fMoveDstFirst_error h)
    · exact decode_illegal2 (fun _ => rfl) (fMoveSrcFirst_src_error (takeSrc16_error h))
    · exact decode_illegal2 (fun _ => rfl) (fMoveSrcFirst_src_error (takeSrc16_error h))
    · exact decode_illegal2 (fun _ => rfl) (fMoveDstFirst_error h)
    · exact decode_illegal2 (fun _ => rfl) (fMoveDstFirst_error h)
    all_goals exact decode_illegal2 (fun _ => rfl) (fMoveSrcFirst_src_error (takeSrc8_error h))
  case second =>
    intro op xb xb2 bs hop hxb hxb2
    obtain ⟨i, hi⟩ := takeIdxShort_cons hxb
    have hmid := hi (xb2 :: bs)
    obtain ⟨_, hshort, hbs, rfl⟩ := (takeIdxShort_codec _ _ _).1 hmid
    have h := takeIdxShort_illegal hxb2 bs
    simp only [List.mem_cons, List.not_mem_nil, or_false] at hop
    obtain rfl | rfl := hop
    · exact decode_illegal2 (fun _ => rfl)
        (fMoveSrcFirst_dst_error ((takeSrc16_codec takeMemIdxShort_codec _ _ _).2 ⟨_, hshort, hbs, rfl⟩) h)
    · exact decode_illegal2 (fun _ => rfl)
        (fMoveSrcFirst_dst_error ((takeSrc8_codec takeMemIdxShort_codec _ _ _).2 ⟨_, hshort, hbs, rfl⟩) h)

end Sys2Proof

namespace Sys2Proof.Machine

/-! ## An unlisted encoding at PC -/

/-- An unlisted encoding at PC is decided by its own bytes: the decoder answers the same with more behind them (R79,
R127). -/
theorem fetchInstr_illegal {s : State} {bytes shown : List Byte} (hlen : bytes.length ≤ maxLength)
    (hd : decode bytes = .error (.illegal shown)) (hc : s.CodeAtPc bytes) :
    s.fetchInstr = .done (.error (.fault (.illegalOpcode shown))) := by
  obtain ⟨more, e, hfetch, -⟩ := fetchFrom_code s bytes maxLength 0 hlen fun j hj => by
    obtain ⟨hplain, hstale, hbyte⟩ := hc j hj
    rw [Nat.zero_add, fetchByte_plain s j hplain hstale, hbyte]
  have hmore : decode (bytes ++ more) = .error (.illegal shown) := by
    obtain htrunc | hsame := decode_stable bytes more
    · exact absurd (hd.symm.trans htrunc) nofun
    · rw [hsame, hd]
      rfl
  simp only [State.fetchInstr, hfetch, hmore]

/-- Settles O6: a quiet boundary fetches, and what it fetches is unlisted. -/
theorem stepFaultsOnUnlisted : Obligations.StepFaultsOnUnlisted := by
  intro s bytes shown hlen hq hd hc
  unfold step
  rw [boundary_quiet s hq, fetchInstr_illegal (s := { s with inputs := s.inputs.tail }) hlen hd hc]
  rfl

/-! ## Effective addresses -/

/-- The adjustment that a field `nnnn` stands for: +1 to +8, then –8 to –1 (R103). -/
def autoStep (n : BitVec 4) : Int := if n.toNat < 8 then n.toNat + 1 else n.toNat - 16

theorem autoAdjust_eq (n : BitVec 4) : autoAdjust n = BitVec.ofInt 16 (autoStep n) := by
  revert n
  decide

/-- Settles O8: each form by the definition of its address; an indirect form reads its pointer from plain memory. -/
theorem effectiveAddresses : Obligations.EffectiveAddresses := by
  intro s
  refine ⟨?dir, fun _ => rfl, fun _ _ => rfl, fun _ _ => rfl, fun _ _ => rfl, ?accA, ?accB, fun _ => rfl,
    fun r n => ⟨autoStep n, ⟨fun h => if_pos h, fun h => if_neg h.not_gt⟩, ?pre, ?post⟩, ?ind16, ?indD⟩
  case dir | accA | accB =>
    intro _
    rw [BitVec.ofNat_toNat]
    rfl
  case pre | post =>
    rw [← autoAdjust_eq]
    rfl
  case ind16 =>
    intro r n h
    obtain ⟨hlo, hhi⟩ := PlainAt_pair_of_PlainFrom s _ _ h
    exact read16_plain s _ hlo hhi
  case indD =>
    intro r h
    obtain ⟨hlo, hhi⟩ := PlainAt_pair_of_PlainFrom s _ _ h
    exact read16_plain s _ hlo hhi

/-! ## Aliases -/

/-- Settles O23: each of the 24 second names (R130) means the shared operation that its core instruction calls. -/
theorem aliasesAreCore : Obligations.AliasesAreCore := by
  intro i s
  cases i with
  | abx | aby | des | ins => rfl
  | clc | cli | clv | sec | sei | sev => rfl
  | tap | tpa | tsx | tsy | txs | tys | xgdx | xgdy => rfl
  | bhs rr | blo rr => rfl
  | lsl m => rfl
  | lsla | lslb | lsld => rfl
  | _ => rfl

end Sys2Proof.Machine
end

section
/-! PROOFS. Operands and the forms without a meaning: the value of an operand and what its evaluation leaves alone (R142 to
R145), and the refusals of R147 and R152. -/

namespace Sys2Proof.Machine

/-! ## Operands -/

/-- A byte operand in plain memory is read after its address, and the read changes nothing (R142). -/
theorem opnd8_of_plain {s s1 : State} {m : Mem} {ea : Word} (hea : s.ea m = .ok (ea, s1)) (h : s.PlainAt .read ea) :
    s.opnd8 (.mem m) = .ok (s.byteAt ea, s1) := by
  have hop := ea_frame s m ea s1 hea
  rw [← Operand_byteAt hop]
  exact (opnd8_mem s m _ _).2 ⟨ea, s1, hea, read8_plain s1 ea ((Operand_PlainAt hop _ _).2 h)⟩

/-- A word operand in plain memory is read after its address, and the read changes nothing (R142). -/
theorem opnd16_of_plain {s s1 : State} {m : Mem} {ea : Word} (hea : s.ea m = .ok (ea, s1))
    (h : s.PlainFrom .read ea 2) : s.opnd16 (.mem m) = .ok (s.wordAt ea, s1) := by
  have hop := ea_frame s m ea s1 hea
  obtain ⟨hlo, hhi⟩ := PlainAt_pair_of_PlainFrom s _ ea h
  rw [← Operand_PlainAt hop] at hlo hhi
  have hword : s1.wordAt ea = s.wordAt ea := by rw [State.wordAt, State.wordAt, Operand_byteAt hop, Operand_byteAt hop]
  exact (opnd16_mem s m _ _).2 ⟨ea, s1, hea, hword ▸ read16_plain s1 ea hlo hhi⟩

/-- Settles O9: an address writes at most the register it adjusts, and a plain read after it writes nothing. -/
theorem operandValues : Obligations.OperandValues := by
  refine ⟨fun _ _ => rfl, fun _ _ => rfl, fun s s1 m ea hea => ?_⟩
  obtain ⟨heff, hmem, hpc⟩ := Writes_of_Operand (ea_frame s m ea s1 hea)
  exact ⟨heff, hmem, hpc, fun h => opnd8_of_plain hea (PlainAt_of_PlainFrom s _ ea ea 1 0 h (by decide) (by simp)),
    opnd16_of_plain hea⟩

/-! ## Forms without a meaning -/

theorem outcome_refuseIf_true {bad : Bool} (hb : bad = true) (r : Refusal) (go : Res State) :
    outcome (refuseIf bad r go) = .refused r := by
  rw [hb, refuseIf_true, outcome_refused]

theorem outcome_refuseIf_refuseIf {bad bad' : Bool} (hb : bad = false) (hb' : bad' = true) (r r' : Refusal)
    (go : Res State) : outcome (refuseIf bad r (refuseIf bad' r' go)) = .refused r' := by
  rw [hb, refuseIf_false, outcome_refuseIf_true hb']

/-- PC as the index base of the six instructions of R147 is refused before anything else happens. -/
theorem exec_of_pcTrailing {i : Instr} (s : State) (h : pcTrailing i = true) :
    exec i s = .refused .pcRelativeTrailing := by
  cases i with
  | bclr | bset | brclr | brset => exact outcome_refuseIf_true h _ _
  | movb | movw => exact outcome_refuseIf_true h _ _
  | _ => exact absurd h nofun

/-- An overlap of R152 is refused; of a move, only once PC as base is excluded. -/
theorem exec_of_autoOverlap {i : Instr} (s : State) (hp : pcTrailing i = false) (h : autoOverlap i = true) :
    exec i s = .refused .autoIndexOverlap := by
  cases i with
  | ldx | ldy | lds | cpx | cpy | cps => exact outcome_refuseIf_true h _ _
  | stx | sty | sts => exact outcome_refuseIf_true h _ _
  | leax | leay | leas => exact outcome_refuseIf_true h _ _
  | jsr => exact outcome_refuseIf_true h _ _
  | movb | movw => exact outcome_refuseIf_refuseIf hp h _ _ _
  | _ => exact absurd h nofun

/-- Settles O22: the six instructions of R147 and the overlaps of R152, each refused before it accesses memory. -/
theorem formsWithoutMeaning : Obligations.FormsWithoutMeaning :=
  fun _ s => ⟨exec_of_pcTrailing s, exec_of_autoOverlap s⟩

end Sys2Proof.Machine
end

section
/-! PROOFS. What an operand's address is used for: the effective address as a value (R185 to R192), moves (R154, R193 to R195)
and the bits of a byte of memory (R320 to R322). -/

namespace Sys2Proof.Machine

/-! ## Load effective address -/

theorem Writes_set16 (s : State) (r : Reg16) (v : Word) : s.Writes (s.set16 r v) (reg16Names r) [] [] := by
  have hregs : ∀ n, n ∉ reg16Names r → (s.set16 r v).reg n = s.reg n := fun n hn => by
    cases r <;> cases n <;> first | rfl | exact absurd (by simp [reg16Names]) hn
  exact ⟨Effect_of_ccr hregs (set16_ccr s r v) (set16_stopped s r v) (set16_inputs s r v) (set16_cfg s r v),
    fun a => by rw [State.byteAt, State.byteAt, set16_mem], set16_pc s r v⟩

theorem get16_set16 (s : State) (r : Reg16) (v : Word) : (s.set16 r v).get16 r = v := by
  cases r with
  | d => exact mkWord_hiByte_loByte v
  | x | y | sp => rfl

/-- An operand's address in a register, in every form but the overlap of R152: no flag and no byte of memory changes (R185). -/
theorem lea_completes {i : Instr} {r : Reg16} {j : Idx} {s s1 : State} {ea : Word} (he : exec i s = lea r j s)
    (hea : s.ea (.idx j) = .ok (ea, s1)) (ho : overlaps (idxAuto j) (reg16Auto r) = false) :
    Completes i s (reg16Names r ++ adjusts (idxAuto j)) [] fun t =>
      t.get16 r = ea ∧ ∀ q ∈ adjusts (idxAuto j), t.reg q = s1.reg q := by
  have hidx : s.idxAddr j = .ok (ea, s1) := hea
  have hset := Writes_set16 s1 r ea
  have hrun : exec i s = .next (s1.set16 r ea) := by
    rw [he, lea, ho, refuseIf_false, hidx, ok_bind, outcome_ok]
  refine Completes_of_Writes hrun ?_ ⟨get16_set16 s1 r ea, fun q hq => ?_⟩
  · exact Writes_subset (Writes_trans (Writes_of_Operand (idxAddr_frame s j ea s1 hidx)) hset) fun q hq =>
      List.mem_append.2 (List.mem_append.1 hq).symm
  · exact hset.effect.regs q fun hn => not_mem_adjusts_of_overlaps ho q hn hq

/-- A form of LEA that adjusts nothing writes the one register, as the four second names do (R189 to R192). -/
theorem lea_fixed_completes {i : Instr} {r : Reg16} {j : Idx} {s : State} {ea : Word} (he : exec i s = lea r j s)
    (hea : s.ea (.idx j) = .ok (ea, s)) (hj : idxAuto j = none) :
    Completes i s (reg16Names r) [] fun t => t.get16 r = ea := by
  have h := lea_completes he hea (by rw [hj]; rfl)
  rw [hj] at h
  simpa [adjusts] using h

/-- Settles O37: LEA in its three registers; ABX, ABY, DES and INS are forms of it, with offset B, –1 or 1. -/
theorem loadAddress : Obligations.LoadAddress := by
  refine ⟨fun p hp j s s1 ea hea ho => ?lea, fun s => ?abx, fun s => ?aby, fun s => ?des, fun s => ?ins⟩
  case lea =>
    simp only [List.mem_cons, List.not_mem_nil, or_false] at hp
    rcases hp with rfl | rfl | rfl <;> exact lea_completes rfl hea ho
  case abx =>
    rw [BitVec.ofNat_toNat]
    exact lea_fixed_completes (r := .x) (j := .acc .x .b) rfl rfl rfl
  case aby =>
    rw [BitVec.ofNat_toNat]
    exact lea_fixed_completes (r := .y) (j := .acc .y .b) rfl rfl rfl
  case des =>
    rw [BitVec.sub_eq_add_neg]
    exact lea_fixed_completes (r := .sp) (j := .ofs5 .sp (-1)) rfl rfl rfl
  case ins => exact lea_fixed_completes (r := .sp) (j := .ofs5 .sp 1) rfl rfl rfl

/-! ## Writes to plain memory -/

/-- A byte written to plain memory stands at its address, and every other byte is as it was (R63). -/
theorem write8_stored (s : State) (a : Word) (v : Byte) (hw : Memory.wf s.mem) (h : s.PlainAt .write a) :
    ∃ t, s.write8 a v = .ok t ∧ t = { s with mem := t.mem, stale := t.stale } ∧ s.SameMemBut t a 1 ∧
      t.byteAt a = v := by
  obtain ⟨t, hrun, ht, -, hbyte⟩ := write8_wrote s a v hw h
  refine ⟨t, hrun, ht, fun b hb => ?_, by simp [hbyte]⟩
  have hne : b ≠ a := by
    rintro rfl
    simp at hb
  rw [hbyte, if_neg hne]

/-- A word written to plain memory stands at its address, and every byte but its two is as it was (R64). -/
theorem write16_stored (s : State) (a v : Word) (hw : Memory.wf s.mem) (h : s.PlainFrom .write a 2) :
    ∃ t, s.write16 a v = .ok t ∧ t = { s with mem := t.mem, stale := t.stale } ∧ s.SameMemBut t a 2 ∧
      t.wordAt a = v := by
  obtain ⟨hlo, hhi⟩ := PlainAt_pair_of_PlainFrom s _ a h
  obtain ⟨t, hrun, ht, -, hbyte⟩ := write16_wrote s a v hw hlo hhi
  refine ⟨t, hrun, ht, fun b hb => ?_, by simp [State.wordAt, hbyte]⟩
  obtain ⟨h0, h1⟩ := ne_of_two_le_sub a b hb
  rw [hbyte, if_neg h1, if_neg h0]

/-- An instruction that writes registers and flags, and then memory. -/
theorem CompletesStore_of_Writes {i : Instr} {s u t : State} {regs : List RegName} {flags : List (Flag × Bool)} {lo : Word}
    {n : Nat} {post : State → Prop} (he : exec i s = .next t) (hu : s.Writes u regs flags [])
    (ht : t = { u with mem := t.mem, stale := t.stale }) (hm : u.SameMemBut t lo n) (hp : post t) :
    CompletesStore i s regs flags lo n post := by
  refine ⟨t, he, ?_, fun a ha => (hm a ha).trans (hu.mem a), ?_, hp⟩
  · rw [ht]
    exact Effect_of_memory hu.effect t.mem t.stale
  · rw [ht]
    exact hu.pc

/-- A change of memory and of what the queue has noted writes no register. -/
theorem reg_of_memory {u t : State} (ht : t = { u with mem := t.mem, stale := t.stale }) (q : RegName) :
    t.reg q = u.reg q := by
  rw [ht]
  cases q <;> rfl

/-! ## Moves -/

/-- The two operands of a move, the destination's address computed after the source was read (D24). -/
theorem Operand_append {s t u : State} {l l' : List RegName} (h : s.Operand t l) (h' : t.Operand u l') :
    s.Operand u (l ++ l') := by
  constructor
  · rw [h'.eq, h.eq]
  · intro r hr
    rw [List.mem_append, not_or] at hr
    exact (h'.regs r hr.2).trans (h.regs r hr.1)

theorem PlainFrom_congr {s t : State} {k : Access} {a : Word} {n : Nat} (hc : t.cfg = s.cfg) (h : s.PlainFrom k a n) :
    t.PlainFrom k a n := fun j hj => (PlainAt_congr s t k _ hc).2 (h j hj)

/-- Settles O38: the operands write at most what they adjust, and then the value is written to plain memory. -/
theorem moveData : Obligations.MoveData := by
  constructor
  · intro src dst s s1 s2 v ea hw hsrc hdst hplain hp ho
    have hop := Operand_append (opnd8_frame s src v s1 hsrc) (ea_frame s1 dst ea s2 hdst)
    obtain ⟨t, hrun, ht, hmem, hv⟩ :=
      write8_stored s2 ea v (Operand_mem hop ▸ hw) ((Operand_PlainAt hop _ _).2 hplain)
    exact CompletesStore_of_Writes (by simp only [movb_eq hp ho, hsrc, hdst, ok_bind, hrun, outcome_ok])
      (Writes_of_Operand hop) ht hmem ⟨hv, fun q _ => reg_of_memory ht q⟩
  · intro src dst s s1 s2 v ea hw hsrc hdst hplain hp ho
    have hop := Operand_append (opnd16_frame s src v s1 hsrc) (ea_frame s1 dst ea s2 hdst)
    obtain ⟨t, hrun, ht, hmem, hv⟩ :=
      write16_stored s2 ea v (Operand_mem hop ▸ hw) (PlainFrom_congr (Operand_cfg hop) hplain)
    exact CompletesStore_of_Writes (by simp only [movw_eq hp ho, hsrc, hdst, ok_bind, hrun, outcome_ok])
      (Writes_of_Operand hop) ht hmem ⟨hv, fun q _ => reg_of_memory ht q⟩

/-! ## Bits of a byte of memory -/

/-- A read-modify-write of a plain byte writes the result of `f` to the address it was read from (R245). -/
theorem modify8_of_plain {f : State → Byte → Byte × State} {s s1 : State} {m : Mem} {ea : Word}
    (hea : s.ea m = .ok (ea, s1)) (h : s.PlainAt .read ea) :
    modify8 f m s = (f s1 (s.byteAt ea)).2.write8 ea (f s1 (s.byteAt ea)).1 := by
  have hop := ea_frame s m ea s1 hea
  have hread := read8_plain s1 ea ((Operand_PlainAt hop _ _).2 h)
  rw [Operand_byteAt hop] at hread
  simp only [modify8, hea, ok_bind, hread]

/-- BCLR and BSET by the byte that they leave (R320). -/
theorem modifyBits_completes {i : Instr} {g : Byte → Byte} {m : Mem} {s s1 : State} {ea : Word}
    (he : exec i s = modifyBits g m s) (hw : Memory.wf s.mem) (hb : memOnPc m = false) (hea : s.ea m = .ok (ea, s1))
    (hr : s.PlainAt .read ea) (hp : s.PlainAt .write ea) {r : Byte} (hg : g (s.byteAt ea) = r) :
    CompletesStore i s (adjusts (memAuto m)) [(.n, r.msb), (.z, r == 0), (.v, false)] ea 1 fun t =>
      t.byteAt ea = r ∧ ∀ q ∈ adjusts (memAuto m), t.reg q = s1.reg q := by
  have hop := ea_frame s m ea s1 hea
  have hwrites := Writes_operand_logicFlags hop (Writes_refl s1) r
  rw [List.append_nil] at hwrites
  have hwf : Memory.wf (s1.logicFlags r).mem := by
    rw [logicFlags_mem, Operand_mem hop]
    exact hw
  have hplain : (s1.logicFlags r).PlainAt .write ea :=
    (PlainAt_congr s _ _ _ hwrites.effect.cfg).2 hp
  obtain ⟨t, hrun, ht, hmem, hv⟩ := write8_stored (s1.logicFlags r) ea r hwf hplain
  refine CompletesStore_of_Writes ?_ hwrites ht hmem ⟨hv, fun q _ => ?_⟩
  · simp only [he, modifyBits, hb, refuseIf_false, modify8_of_plain hea hr, bitOp, hg, hrun, outcome_ok]
  · exact (reg_of_memory ht q).trans ((Writes_logicFlags s1 r).effect.regs q List.not_mem_nil)

/-- Settles O54: the byte with the selected bits cleared or set is the one that BCLR or BSET writes. -/
theorem bitManipulation : Obligations.BitManipulation := by
  intro m mm s s1 ea hw hb hea hr hp
  refine ⟨fun r hbits => modifyBits_completes rfl hw hb hea hr hp (BitVec.eq_of_getLsbD_eq fun k hk => ?clear),
    fun r hbits => modifyBits_completes rfl hw hb hea hr hp (BitVec.eq_of_getLsbD_eq fun k hk => ?set)⟩
  case clear => rw [hbits k hk, BitVec.getLsbD_and, BitVec.getLsbD_not, decide_eq_true hk, Bool.true_and, Bool.and_comm]
  case set => rw [hbits k hk, BitVec.getLsbD_or, Bool.or_comm]

end Sys2Proof.Machine
end

section
/-! PROOFS. Transfers of control by an operand: the branches on bits of a byte (R390 to R392), jumps, calls and returns (R393 to
R397). -/

namespace Sys2Proof.Machine

/-! ## Transfers of control -/

theorem reg_branch (s : State) (c : Bool) (a : Word) (r : RegName) : (s.branch c a).reg r = s.reg r := by
  cases c <;> cases r <;> rfl

/-- A change of PC and of what the queue has noted writes no register and no flag (R78(d)). -/
theorem Effect_branch {s u : State} {l : List RegName} {fl : List (Flag × Bool)} {free : List Flag}
    (h : s.Effect u l fl free) (c : Bool) (a : Word) : s.Effect (u.branch c a) l fl free where
  regs r hr := (reg_branch u c a r).trans (h.regs r hr)
  flagsSet p hp := (flag_branch u c a p.1).trans (h.flagsSet p hp)
  flagsKept f hf hn := (flag_branch u c a f).trans (h.flagsKept f hf hn)
  stopped := (branch_stopped u c a).trans h.stopped
  inputs := (branch_inputs u c a).trans h.inputs
  cfg := (branch_cfg u c a).trans h.cfg

/-- An instruction that writes registers and then branches to `a` on the condition `c`. -/
theorem CompletesAt_of_branch {i : Instr} {s u : State} {regs : List RegName} {c : Bool} {a : Word} {post : State → Prop}
    (he : exec i s = .next (u.branch c a)) (hu : s.Writes u regs [] []) (hp : post (u.branch c a)) :
    CompletesAt i s regs (if c then a else s.pc) post := by
  refine ⟨_, he, Effect_branch hu.effect c a, fun b => ?_, ?_, hp⟩
  · rw [← hu.mem b, State.byteAt, State.byteAt, branch_mem]
  · rw [branch_pc, hu.pc]

/-- An instruction that writes registers and then jumps: a branch always taken. -/
theorem CompletesAt_of_jump {i : Instr} {s u : State} {regs : List RegName} {a : Word} {post : State → Prop}
    (he : exec i s = .next (u.jump a)) (hu : s.Writes u regs [] []) (hp : post (u.jump a)) :
    CompletesAt i s regs a post := CompletesAt_of_branch (c := true) he hu hp

/-! ## Branches on bits of a byte -/

/-- A branch on the byte at an effective address, the test given as a condition `P` on the byte (R390). -/
theorem branchOnBits_completes {i : Instr} {test : Byte → Bool} {m : Mem} {rr : Byte} {s s1 s2 : State} {ea : Word}
    {v : Byte} {P : Prop} [Decidable P] (he : exec i s = branchOnBits test m rr s) (hb : memOnPc m = false)
    (hea : s.ea m = .ok (ea, s1)) (hv : s1.read8 ea = .ok (v, s2)) (ht : test v = true ↔ P) :
    CompletesAt i s (adjusts (memAuto m)) (if P then s.pc + BitVec.ofInt 16 rr.toInt else s.pc) fun t =>
      ∀ q ∈ adjusts (memAuto m), t.reg q = s1.reg q := by
  have hop : s.opnd8 (.mem m) = .ok (v, s2) := (opnd8_mem s m v s2).2 ⟨ea, s1, hea, hv⟩
  have hframe : s.Operand s2 (adjusts (memAuto m)) := opnd8_frame s _ v s2 hop
  have hregs : ∀ q, s2.reg q = s1.reg q := fun q =>
    (Operand_of_draws s1 s2 [] (read8_frame s1 ea v s2 hv)).regs q List.not_mem_nil
  have htarget : s2.relTarget rr = s.pc + BitVec.ofInt 16 rr.toInt := congrArg (· + _) (Operand_pc hframe)
  have hrun : exec i s = .next (s2.branch (test v) (s.pc + BitVec.ofInt 16 rr.toInt)) := by
    rw [he, branchOnBits_eq, hb, refuseIf_false, hop, ok_bind, outcome_ok, htarget]
  have h := CompletesAt_of_branch hrun (Writes_of_Operand hframe)
    (post := fun t => ∀ q ∈ adjusts (memAuto m), t.reg q = s1.reg q) fun q _ => (reg_branch _ _ _ q).trans (hregs q)
  simpa only [ht] using h

/-- No selected bit is set (R391). -/
theorem and_beq_zero_iff (v mm : Byte) :
    (v &&& mm == 0) = true ↔ ∀ k < 8, mm.getLsbD k = true → v.getLsbD k = false := by
  rw [beq_iff_eq]
  constructor
  · intro h k _ hm
    have hk : (v &&& mm).getLsbD k = false := by rw [h]; exact BitVec.getLsbD_zero
    simpa [hm] using hk
  · intro h
    refine BitVec.eq_of_getLsbD_eq fun k hk => ?_
    cases hm : mm.getLsbD k with
    | false => simp [hm]
    | true => simp [h k hk hm]

/-- Every selected bit is set (R392): none is set in the complement. -/
theorem not_and_beq_zero_iff (v mm : Byte) :
    (~~~v &&& mm == 0) = true ↔ ∀ k < 8, mm.getLsbD k = true → v.getLsbD k = true := by
  rw [and_beq_zero_iff]
  refine forall₂_congr fun k hk => ?_
  rw [BitVec.getLsbD_not, decide_eq_true hk, Bool.true_and, Bool.not_eq_false']

/-- Settles O57: both are one branch on the byte read; the masked byte or its masked complement is zero. -/
theorem bitBranches : Obligations.BitBranches := by
  intro m mm rr s s1 s2 ea v hb hea hv
  exact ⟨branchOnBits_completes (test := fun v => v &&& mm == 0) rfl hb hea hv (and_beq_zero_iff v mm),
    branchOnBits_completes (test := fun v => ~~~v &&& mm == 0) rfl hb hea hv (not_and_beq_zero_iff v mm)⟩

/-! ## Calls -/

/-- A word pushed onto plain memory is the word at the new SP (R20, R64). -/
theorem push16_stored (s : State) (v : Word) (hw : Memory.wf s.mem) (h : s.PlainFrom .write (s.sp - 2) 2) :
    ∃ t, s.push16 v = .ok t ∧ t = { s with sp := s.sp - 2, mem := t.mem, stale := t.stale } ∧
      s.SameMemBut t (s.sp - 2) 2 ∧ t.wordAt (s.sp - 2) = v :=
  write16_stored { s with sp := s.sp - 2 } (s.sp - 2) v hw h

/-- A push writes SP and no other register, and no flag. -/
theorem Effect_of_push {s u t : State} {l : List RegName} (h : s.Writes u l [] [])
    (ht : t = { u with sp := u.sp - 2, mem := t.mem, stale := t.stale }) : s.Effect t (.sp :: l) [] [] := by
  have hsp : s.Writes (u.set16 .sp (u.sp - 2)) (.sp :: l) [] [] :=
    Writes_subset (Writes_trans h (Writes_set16 u .sp (u.sp - 2))) (by simp [reg16Names, or_comm])
  rw [ht]
  exact Effect_of_memory hsp.effect t.mem t.stale

/-- A subroutine call once its target's address has been computed, which leaves SP alone (R151, R394, R395, R397). -/
theorem call_completes {i : Instr} {s u : State} {l : List RegName} {target : Word} (he : exec i s = outcome (u.call target))
    (hop : s.Operand u l) (hl : .sp ∉ l) (hw : Memory.wf s.mem) (hp : s.PlainFrom .write (s.sp - 2) 2) :
    CompletesCall i s l target fun t => ∀ q ∈ l, t.reg q = u.reg q := by
  have hsp : u.sp = s.sp := hop.regs .sp hl
  obtain ⟨t, hrun, ht, hmem, hword⟩ := push16_stored u u.pc (Operand_mem hop ▸ hw)
    (by rw [hsp]; exact PlainFrom_congr (Operand_cfg hop) hp)
  rw [hsp] at hmem hword
  have hregs : ∀ q ∈ l, t.reg q = u.reg q := fun q hq => by
    rw [ht]
    cases q with
    | sp => exact absurd hq hl
    | a | b | x | y => rfl
  refine ⟨t.jump target, ?run, Effect_branch (Effect_of_push (Writes_of_Operand hop) ht) true target,
    fun a ha => (hmem a ha).trans (Operand_byteAt hop a), rfl, ?newSp, hword.trans (Operand_pc hop),
    fun q hq => (reg_branch t true target q).trans (hregs q hq)⟩
  case run => rw [he, State.call, hrun, ok_bind, outcome_ok]
  case newSp => exact (congrArg State.sp ht).trans (congrArg (· - 2) hsp)

/-- An address that is not in overlap with SP leaves SP alone (R152). -/
theorem sp_not_mem_adjusts {auto : Option AutoReg} (h : overlaps auto (some .sp) = false) : .sp ∉ adjusts auto :=
  not_mem_adjusts_of_overlaps (r := .sp) h .sp List.mem_cons_self

/-- A pull of the word that a read at SP answers, on any map. -/
theorem pull16_of_read16 {s u : State} {v : Word} (h : s.read16 s.sp = .ok (v, u)) :
    s.pull16 = .ok (v, { u with sp := u.sp + 2 }) := by
  rw [State.pull16, h, ok_bind]

/-- Settles O58: JMP and RTS write registers and jump, BSR and JSR are one call. -/
theorem jumpsAndCalls : Obligations.JumpsAndCalls := by
  refine ⟨fun m s s1 ea hea => ?jmp, fun s rr hw hp => ?bsr, fun m s s1 ea hw hea ho hp => ?jsr, fun s s1 v hv => ?rts⟩
  case jmp =>
    have hrun : exec (.jmp m) s = .next (s1.jump ea) := by
      show outcome (s.ea m >>= fun p => .ok (p.2.jump p.1)) = _
      rw [hea, ok_bind, outcome_ok]
    exact CompletesAt_of_jump hrun (Writes_of_Operand (ea_frame s m ea s1 hea)) fun q _ => reg_branch s1 true ea q
  case bsr =>
    obtain ⟨t, hrun, heff, hmem, hpc, hsp, hword, -⟩ :=
      call_completes (i := .bsr rr) rfl (Operand_of_draws s s [] rfl) List.not_mem_nil hw hp
    exact ⟨t, hrun, heff, hmem, hpc, hsp, hword, trivial⟩
  case jsr =>
    have hrun : exec (.jsr m) s = outcome (s1.call ea) := by
      show outcome (refuseIf (autoOverlap (.jsr m)) _ (s.ea m >>= fun p => p.2.call p.1)) = _
      rw [ho, refuseIf_false, hea, ok_bind]
    exact call_completes hrun (ea_frame s m ea s1 hea) (sp_not_mem_adjusts ho) hw hp
  case rts =>
    have hread := Operand_of_draws s s1 [] (read16_frame s s.sp v s1 hv)
    have hrun : exec .rts s = .next (State.jump { s1 with sp := s1.sp + 2 } v) := by
      show outcome (s.pull16 >>= fun p => .ok (p.2.jump p.1)) = _
      rw [pull16_of_read16 hv, ok_bind, outcome_ok]
    exact CompletesAt_of_jump hrun (Writes_trans (Writes_of_Operand hread) (Writes_set16 s1 .sp (s1.sp + 2)))
      (congrArg (· + 2) (hread.regs .sp List.not_mem_nil))

end Sys2Proof.Machine
end

section
/-! PROOFS. Loads, 8-bit stores, pushes and pulls (R171 to R180, R209 to R221): an operand evaluated or SP moved, one register
or one place of memory written, and the flags of the value where the instruction has any. -/

namespace Sys2Proof.Machine

/-! ## Encodings -/

/-- The eight forms of R171 and R241 are those that the encoder writes. -/
theorem EightForms8_of_decode {o : Byte} {f : Src8 → Instr}
    (h : ∀ op rest, decode (op.encodeOp o ++ rest) = .ok (f op, rest)) : EightForms8 o f := by
  intro rest
  refine ⟨fun ii => h (.imm ii) rest, fun dd => h (.mem (.dir dd)) rest, fun hh ll => ?ext,
    fun i => h (.mem (.idx i)) rest⟩
  case ext =>
    have hext := h (.mem (.ext (mkWord hh ll))) rest
    rwa [Src8.encodeOp, Mem.encodeOp, wordBytes_mkWord] at hext

/-- The seven forms of R178 are those that the encoder writes. -/
theorem StoreForms_of_decode {o : Byte} {f : Mem → Instr}
    (h : ∀ m rest, decode (storeBytes o m ++ rest) = .ok (f m, rest)) : StoreForms o f := by
  intro rest
  refine ⟨fun dd => h (.dir dd) rest, fun hh ll => ?ext, fun i => h (.idx i) rest⟩
  case ext =>
    have hext := h (.ext (mkWord hh ll)) rest
    rwa [storeBytes, Mem.encodeOp, wordBytes_mkWord] at hext

/-! ## Values of registers -/

theorem get8_set8 (s : State) (r : Reg8) (v : Byte) : (s.set8 r v).get8 r = v := by cases r <;> rfl

theorem get8_logicFlags {w : Nat} (s : State) (v : BitVec w) (r : Reg8) : (s.logicFlags v).get8 r = s.get8 r := by
  cases r <;> rfl

theorem get16_logicFlags {w : Nat} (s : State) (v : BitVec w) (r : Reg16) : (s.logicFlags v).get16 r = s.get16 r := by
  cases r <;> rfl

theorem reg_logicFlags {w : Nat} (s : State) (v : BitVec w) (q : RegName) : (s.logicFlags v).reg q = s.reg q :=
  (Writes_logicFlags s v).effect.regs q List.not_mem_nil

/-- An operand adjusts neither A nor B (R145). -/
theorem not_mem_adjusts_of_reg8Names (auto : Option AutoReg) (r : Reg8) : ∀ n ∈ reg8Names r, n ∉ adjusts auto := by
  cases auto with
  | none => simp [adjusts]
  | some q => cases q <;> cases r <;> decide

theorem get8_of_Operand {s t : State} {l : List RegName} (h : s.Operand t l) (r : Reg8) : t.get8 r = s.get8 r := by
  cases r with
  | a => exact Operand_a h
  | b => exact Operand_b h

/-! ## Loads -/

/-- A load whose operand adjusts no register that it writes: the operand is evaluated, the registers `l'` are written, and
then the flags of the value (R171). -/
theorem load_completes {w : Nat} {i : Instr} {s s1 u : State} {v : BitVec w} {l l' : List RegName} {post : State → Prop}
    (he : exec i s = .next (u.logicFlags v)) (hop : s.Operand s1 l) (hset : s1.Writes u l' [] [])
    (hl : ∀ n ∈ l', n ∉ l) (hp : post (u.logicFlags v)) :
    Completes i s (l' ++ l) [(.n, v.msb), (.z, v == 0), (.v, false)] fun t => post t ∧ ∀ q ∈ l, t.reg q = s1.reg q := by
  have hwrites := Writes_operand_logicFlags hop hset v
  exact Completes_of_Writes he (Writes_subset hwrites fun q hq => List.mem_append.2 (List.mem_append.1 hq).symm)
    ⟨hp, fun q hq => (reg_logicFlags u v q).trans (hset.effect.regs q fun hn => hl q hn hq)⟩

/-- A load of D, X, Y or SP once its operand has been read (R171, R152). -/
theorem load16_of_opnd16 {s s1 : State} {r : Reg16} {op : Src16} {v : Word} (h : s.opnd16 op = .ok (v, s1))
    (ho : overlaps (src16Auto op) (reg16Auto r) = false) :
    load16 r op s = .next ((s1.set16 r v).logicFlags v) := by
  simp only [load16, ho, refuseIf_false, h, ok_bind, outcome_ok]

/-- Settles O33: the two loads are one operation on the two accumulators, and no operand adjusts an accumulator. -/
theorem loadByte : Obligations.LoadByte := by
  refine ⟨⟨EightForms8_of_decode fun op rest => decodeEncode (.ldaa op) rest rfl,
    EightForms8_of_decode fun op rest => decodeEncode (.ldab op) rest rfl⟩, fun p hp op s s1 v hop => ?_⟩
  have hexec : exec (p.2 op) s = load8 p.1 op s := by fin_cases hp <;> rfl
  exact load_completes (hexec.trans (load8_of_opnd8 hop)) (opnd8_frame s op v s1 hop) (Writes_set8 s1 p.1 v)
    (not_mem_adjusts_of_reg8Names _ p.1) ((get8_logicFlags _ v p.1).trans (get8_set8 s1 p.1 v))

/-- Settles O34: the four loads are one operation on the four registers; what R152 leaves is no overlap. -/
theorem loadWord : Obligations.LoadWord := by
  intro p hp op s s1 v hop ho
  have hexec : exec (p.2 op) s = load16 p.1 op s := by fin_cases hp <;> rfl
  exact load_completes (hexec.trans (load16_of_opnd16 hop ho)) (opnd16_frame s op v s1 hop) (Writes_set16 s1 p.1 v)
    (not_mem_adjusts_of_overlaps ho) ((get16_logicFlags _ v p.1).trans (get16_set16 s1 p.1 v))

/-! ## 8-bit stores -/

/-- An 8-bit store once its address and its byte have been written. -/
theorem store8_of_write8 {s s1 u : State} {r : Reg8} {m : Mem} {ea : Word} (hea : s.ea m = .ok (ea, s1))
    (hw : s1.write8 ea (s1.get8 r) = .ok u) : store8 r m s = .next (u.logicFlags (u.get8 r)) := by
  simp only [store8, hea, ok_bind, hw, outcome_ok]

/-- The flags of a value, written after memory or before. -/
theorem logicFlags_of_memory {w : Nat} {s u : State} (hu : u = { s with mem := u.mem, stale := u.stale }) (v : BitVec w) :
    u.logicFlags v = { s.logicFlags v with mem := (u.logicFlags v).mem, stale := (u.logicFlags v).stale } := by
  rw [logicFlags_mem, logicFlags_stale]
  exact congrArg (fun t : State => t.logicFlags v) hu

theorem get8_of_memory {s u : State} (hu : u = { s with mem := u.mem, stale := u.stale }) (r : Reg8) :
    u.get8 r = s.get8 r := by
  rw [hu]
  cases r <;> rfl

/-- An 8-bit store to plain memory (R63, R178). -/
theorem store8_completes {i : Instr} {r : Reg8} {m : Mem} {s s1 : State} {ea : Word} (he : exec i s = store8 r m s)
    (hw : Memory.wf s.mem) (hea : s.ea m = .ok (ea, s1)) (hp : s.PlainAt .write ea) :
    CompletesStore i s (adjusts (memAuto m)) [(.n, (s.get8 r).msb), (.z, s.get8 r == 0), (.v, false)] ea 1 fun t =>
      t.byteAt ea = s.get8 r ∧ ∀ q ∈ adjusts (memAuto m), t.reg q = s1.reg q := by
  have hop := ea_frame s m ea s1 hea
  obtain ⟨u, hwrite, hu, hmem, hbyte⟩ :=
    write8_stored s1 ea (s1.get8 r) (Operand_mem hop ▸ hw) ((Operand_PlainAt hop _ _).2 hp)
  have hrun := he.trans (store8_of_write8 hea hwrite)
  rw [get8_of_memory hu, get8_of_Operand hop] at hrun
  rw [get8_of_Operand hop] at hbyte
  have hwrites := Writes_operand_logicFlags hop (Writes_refl s1) (s.get8 r)
  rw [List.append_nil] at hwrites
  have ht := logicFlags_of_memory hu (s.get8 r)
  exact CompletesStore_of_Writes hrun hwrites ht hmem
    ⟨hbyte, fun q _ => (reg_of_memory ht q).trans (reg_logicFlags s1 _ q)⟩

/-- Settles O35: the two stores are one operation on the two accumulators. -/
theorem storeByte : Obligations.StoreByte := by
  refine ⟨⟨StoreForms_of_decode fun m rest => decodeEncode (.staa m) rest rfl,
    StoreForms_of_decode fun m rest => decodeEncode (.stab m) rest rfl⟩, fun p hp m s s1 ea hw hea hplain => ?_⟩
  have hexec : exec (p.2 m) s = store8 p.1 m s := by fin_cases hp <;> rfl
  exact store8_completes hexec hw hea hplain

/-! ## Pushes -/

/-- A byte pushed onto plain memory is the byte at the new SP (R20). -/
theorem push8_stored (s : State) (v : Byte) (hw : Memory.wf s.mem) (h : s.PlainAt .write (s.sp - 1)) :
    ∃ t, s.push8 v = .ok t ∧ t = { s with sp := s.sp - 1, mem := t.mem, stale := t.stale } ∧
      s.SameMemBut t (s.sp - 1) 1 ∧ t.byteAt (s.sp - 1) = v :=
  write8_stored { s with sp := s.sp - 1 } (s.sp - 1) v hw h

/-- An instruction that moves SP and then writes memory. -/
theorem CompletesStore_of_push {i : Instr} {s t : State} {p lo : Word} {n : Nat} {post : State → Prop}
    (he : exec i s = .next t) (ht : t = { s with sp := p, mem := t.mem, stale := t.stale }) (hm : s.SameMemBut t lo n)
    (hp : post t) : CompletesStore i s [.sp] [] lo n fun t => t.sp = p ∧ post t :=
  CompletesStore_of_Writes he (Writes_set16 s .sp p) ht hm ⟨congrArg State.sp ht, hp⟩

/-- Settles O39: the pushes are two operations, one for a byte and one for a word. -/
theorem pushRegister : Obligations.PushRegister := by
  refine ⟨fun p hp rest => ?encoding, fun p hp s hw h => ?byte, fun p hp s hw h => ?word⟩
  case encoding => fin_cases hp <;> rfl
  case byte =>
    have hexec : exec p.1 s = pushByte (p.2 s) s := by fin_cases hp <;> rfl
    obtain ⟨t, hpush, ht, hmem, hbyte⟩ := push8_stored s (p.2 s) hw h
    exact CompletesStore_of_push (by rw [hexec, pushByte, hpush, outcome_ok]) ht hmem hbyte
  case word =>
    have hexec : exec p.1 s = pushWord (p.2 s) s := by fin_cases hp <;> rfl
    obtain ⟨t, hpush, ht, hmem, hword⟩ := push16_stored s (p.2 s) hw h
    exact CompletesStore_of_push (hexec.trans ((pushWord_next_iff (p.2 s) s t).2 hpush)) ht hmem hword

/-! ## Pulls -/

/-- A pull into A or B completes exactly if the pull does, and the register takes the pulled byte (R209). -/
theorem pullInto8_next_iff (r : Reg8) (s u : State) :
    pullInto8 r s = .next u ↔ ∃ v t, s.pull8 = .ok (v, t) ∧ u = t.set8 r v := by
  rw [pullInto8, outcome_next_iff, bind_ok_iff]
  simp only [Prod.exists, Except.ok.injEq, @eq_comm _ u]

/-- A read at SP and then SP moved up: SP is all that changes (R20). -/
theorem Writes_pull {s s1 : State} (h : s1 = { s with draws := s1.draws }) (k : Word) :
    s.Writes { s1 with sp := s1.sp + k } [.sp] [] [] ∧ s1.sp + k = s.sp + k := by
  have hread := Operand_of_draws s s1 [] h
  exact ⟨Writes_trans (Writes_of_Operand hread) (Writes_set16 s1 .sp (s1.sp + k)),
    congrArg (· + k) (hread.regs .sp List.not_mem_nil)⟩

/-- Settles O40: every pull is a read at SP, SP moved up, and one register written or CCR loaded. -/
theorem pullRegister : Obligations.PullRegister := by
  refine ⟨fun p hp rest => ?encoding, fun p hp s s1 v hv => ?byte, fun p hp s s1 v hv => ?word, fun s s1 v hv => ?ccr⟩
  case encoding => fin_cases hp <;> rfl
  case byte =>
    have hexec : exec p.2 s = pullInto8 p.1 s := by fin_cases hp <;> rfl
    obtain ⟨hwrites, hsp⟩ := Writes_pull (read8_frame s s.sp v s1 hv) 1
    exact Completes_of_Writes (hexec.trans ((pullInto8_next_iff p.1 s _).2 ⟨v, _, pull8_of_read8 hv, rfl⟩))
      (Writes_trans hwrites (Writes_set8 _ p.1 v)) ⟨get8_set8 _ p.1 v, (set8_sp _ p.1 v).trans hsp⟩
  case word =>
    have hexec : exec p.2 s = pullInto16 p.1 s := by fin_cases hp <;> rfl
    have hne : .sp ∉ reg16Names p.1 := by fin_cases hp <;> decide
    obtain ⟨hwrites, hsp⟩ := Writes_pull (read16_frame s s.sp v s1 hv) 2
    have hset := Writes_set16 { s1 with sp := s1.sp + 2 } p.1 v
    exact Completes_of_Writes (hexec.trans ((pullInto16_next_iff p.1 s _).2 ⟨v, _, pull16_of_read16 hv, rfl⟩))
      (Writes_trans hwrites hset) ⟨get16_set16 _ p.1 v, (hset.effect.regs .sp hne).trans hsp⟩
  case ccr =>
    obtain ⟨hwrites, hsp⟩ := Writes_pull (read8_frame s s.sp v s1 hv) 1
    have hccr : s1.ccr = s.ccr := by rw [read8_frame s s.sp v s1 hv]
    have hflags : loadedFlags { s1 with sp := s1.sp + 1 } v = loadedFlags s v := loadedFlags_congr v hccr
    exact Completes_of_Writes ((execPulc_next_iff s _).2 ⟨v, _, pull8_of_read8 hv, rfl⟩)
      (hflags ▸ Writes_trans hwrites (Writes_loadCcr _ v)) hsp

end Sys2Proof.Machine
end

section
/-! PROOFS. Sums and differences as values (R242 to R244): their flags in arithmetic form, the boolean forms that the spec prints
beside them, and the orders that a branch reads off a difference (R372). -/

namespace Sys2Proof.Machine

/-! ## Results of a sum and of a difference -/

/-- The result `r` of a sum of `x` and `m`, with its flags (R242, R244). -/
def Alu.ofSum {w : Nat} (x m r : BitVec w) (c : Bool) : Alu w :=
  { r := r, n := r.msb, z := r == 0, v := x.msb == m.msb && r.msb != x.msb, c := c }

/-- The result `r` of `m` subtracted from `x`, with its flags (R243, R244). -/
def Alu.ofDifference {w : Nat} (x m r : BitVec w) (c : Bool) : Alu w :=
  { r := r, n := r.msb, z := r == 0, v := x.msb != m.msb && r.msb != x.msb, c := c }

theorem add8_eq (x m : Byte) (cin : Bool) :
    add8 x m cin = .ofSum x m (x + m + BitVec.ofNat 8 cin.toNat) (decide (255 < x.toNat + m.toNat + cin.toNat)) := by
  have hr : BitVec.ofNat 8 (x.toNat + m.toNat + cin.toNat) = x + m + BitVec.ofNat 8 cin.toNat := by
    simp [BitVec.ofNat_add]
  rw [← hr]
  rfl

theorem add16_eq (x m : Word) : add16 x m = .ofSum x m (x + m) (decide (65535 < x.toNat + m.toNat)) := by
  have hr : BitVec.ofNat 16 (x.toNat + m.toNat) = x + m := by simp [BitVec.ofNat_add]
  rw [← hr]
  rfl

theorem sub8_eq (x m : Byte) (bin : Bool) :
    sub8 x m bin = .ofDifference x m (x - m - BitVec.ofNat 8 bin.toNat) (decide (x.toNat < m.toNat + bin.toNat)) := by
  have hr : BitVec.ofInt 8 ((x.toNat : Int) - m.toNat - bin.toNat) = x - m - BitVec.ofNat 8 bin.toNat := by
    apply BitVec.eq_of_toNat_eq
    simp only [BitVec.toNat_ofInt, BitVec.toNat_sub, BitVec.toNat_ofNat]
    have := Bool.toNat_le bin
    omega
  have hc : decide ((x.toNat : Int) - m.toNat - bin.toNat < 0) = decide (x.toNat < m.toNat + bin.toNat) :=
    decide_eq_decide.2 (by omega)
  rw [← hr, ← hc]
  rfl

theorem sub16_eq (x m : Word) : sub16 x m = .ofDifference x m (x - m) (decide (x.toNat < m.toNat)) := by
  have hr : BitVec.ofInt 16 ((x.toNat : Int) - m.toNat) = x - m := by
    apply BitVec.eq_of_toNat_eq
    simp only [BitVec.toNat_ofInt, BitVec.toNat_sub]
    omega
  have hc : decide ((x.toNat : Int) - m.toNat < 0) = decide (x.toNat < m.toNat) := decide_eq_decide.2 (by omega)
  rw [← hr, ← hc]
  rfl

/-- A comparison is a subtraction without borrow (R258). -/
theorem sub8_false_eq (x m : Byte) : sub8 x m false = .ofDifference x m (x - m) (decide (x.toNat < m.toNat)) := by
  rw [sub8_eq]
  simp

/-! ## Results as numbers -/

/-- A sum that fits, or one that wraps once. -/
theorem add8_toNat (x m : Byte) (cin : Bool) :
    x.toNat + m.toNat + cin.toNat = (add8 x m cin).r.toNat ∨
      x.toNat + m.toNat + cin.toNat = (add8 x m cin).r.toNat + 256 := by
  have hr : (add8 x m cin).r.toNat = (x.toNat + m.toNat + cin.toNat) % 256 := BitVec.toNat_ofNat _ _
  have hcin := Bool.toNat_le cin
  omega

theorem add16_toNat (x m : Word) :
    x.toNat + m.toNat = (add16 x m).r.toNat ∨ x.toNat + m.toNat = (add16 x m).r.toNat + 65536 := by
  have hr : (add16 x m).r.toNat = (x.toNat + m.toNat) % 65536 := BitVec.toNat_ofNat _ _
  omega

/-- A difference that needs no borrow, or one that wraps once. -/
theorem sub8_toNat (x m : Byte) (bin : Bool) :
    x.toNat = m.toNat + bin.toNat + (sub8 x m bin).r.toNat ∨
      x.toNat + 256 = m.toNat + bin.toNat + (sub8 x m bin).r.toNat := by
  have hr : (sub8 x m bin).r.toNat = (((x.toNat : Int) - m.toNat - bin.toNat) % 256).toNat := BitVec.toNat_ofInt _
  have hbin := Bool.toNat_le bin
  omega

theorem sub_toNat {w : Nat} (x m : BitVec w) :
    x.toNat = m.toNat + (x - m).toNat ∨ x.toNat + 2 ^ w = m.toNat + (x - m).toNat := by
  rcases Nat.lt_or_ge x.toNat m.toNat with h | h
  · have hr := BitVec.toNat_sub_of_lt h
    omega
  · have hr := BitVec.toNat_sub_of_le h
    omega

/-! ## The boolean forms of the flags -/

/-- The carry out of a sum modulo `2 * N` is the majority of the top bits of the operands and of the result's complement. -/
theorem carry_eq_majority {N x m k r : Nat} (hx : x < 2 * N) (hm : m < 2 * N) (hk : k ≤ 1) (hr : r < 2 * N)
    (hsum : x + m + k = r ∨ x + m + k = r + 2 * N) :
    decide (2 * N ≤ x + m + k) = ((decide (N ≤ x) && decide (N ≤ m)) || (decide (N ≤ m) && !decide (N ≤ r)) ||
      (!decide (N ≤ r) && decide (N ≤ x))) := by
  rw [Bool.eq_iff_iff]
  simp only [Bool.or_eq_true, Bool.and_eq_true, Bool.not_eq_true', decide_eq_true_eq, decide_eq_false_iff_not]
  omega

/-- The borrow of a difference modulo `2 * N` is the majority of the top bits of the subtrahend, of the result and of the
minuend's complement. -/
theorem borrow_eq_majority {N x m k r : Nat} (hx : x < 2 * N) (hm : m < 2 * N) (hk : k ≤ 1) (hr : r < 2 * N)
    (hdiff : x = m + k + r ∨ x + 2 * N = m + k + r) :
    decide (x < m + k) = ((!decide (N ≤ x) && decide (N ≤ m)) || (decide (N ≤ m) && decide (N ≤ r)) ||
      (decide (N ≤ r) && !decide (N ≤ x))) := by
  rw [Bool.eq_iff_iff]
  simp only [Bool.or_eq_true, Bool.and_eq_true, Bool.not_eq_true', decide_eq_true_eq, decide_eq_false_iff_not]
  omega

/-- A sum overflows where both operands have one sign and the result the other. -/
theorem sum_overflow_formula (x m r : Bool) : (x == m && r != x) = ((x && m && !r) || (!x && !m && r)) := by
  revert x m r
  decide

/-- A difference overflows where the operands have different signs and the result has not that of the minuend. -/
theorem difference_overflow_formula (x m r : Bool) : (x != m && r != x) = ((x && !m && !r) || (!x && m && r)) := by
  revert x m r
  decide

theorem byte_msb (v : Byte) : v.msb = decide (128 ≤ v.toNat) := BitVec.msb_eq_decide v

theorem word_msb (v : Word) : v.msb = decide (32768 ≤ v.toNat) := BitVec.msb_eq_decide v

/-- Bit 3 is the top bit of the low digit (R43). -/
theorem byte_getLsbD_three (v : Byte) : v.getLsbD 3 = decide (8 ≤ v.toNat % 16) := by
  rw [BitVec.getLsbD, Nat.testBit_eq_decide_div_mod_eq]
  exact decide_eq_decide.2 (by omega)

/-- Settles O14: carries and borrows are majorities of top bits, of the low digits for H; V is a matter of signs. -/
theorem flagFormulas : Obligations.FlagFormulas := by
  refine ⟨fun x m cin => ⟨?c8, sum_overflow_formula _ _ _, ?h8⟩, fun x m bin => ⟨?b8, difference_overflow_formula _ _ _⟩,
    fun x m => ⟨?c16, sum_overflow_formula _ _ _, ?b16, difference_overflow_formula _ _ _⟩⟩
  case c8 =>
    simp only [byte_msb]
    exact carry_eq_majority (N := 128) x.isLt m.isLt (Bool.toNat_le cin) (BitVec.isLt _) (add8_toNat x m cin)
  case h8 =>
    simp only [byte_getLsbD_three]
    have hsum := add8_toNat x m cin
    have hcin := Bool.toNat_le cin
    exact carry_eq_majority (N := 8) (by omega) (by omega) hcin (by omega) (by omega)
  case b8 =>
    have hborrow : (sub8 x m bin).c = decide (x.toNat < m.toNat + bin.toNat) := by rw [sub8_eq]; rfl
    rw [hborrow, byte_msb, byte_msb, byte_msb]
    exact borrow_eq_majority (N := 128) x.isLt m.isLt (Bool.toNat_le bin) (BitVec.isLt _) (sub8_toNat x m bin)
  case c16 =>
    simp only [word_msb]
    exact carry_eq_majority (N := 32768) (k := 0) x.isLt m.isLt (Nat.zero_le 1) (BitVec.isLt _) (add16_toNat x m)
  case b16 =>
    rw [sub16_eq, Alu.ofDifference, word_msb, word_msb, word_msb]
    exact borrow_eq_majority (N := 32768) (k := 0) x.isLt m.isLt (Nat.zero_le 1) (BitVec.isLt _) (sub_toNat x m)

/-! ## The orders that a branch reads off a difference -/

/-- The flags of `t` tell how `x` and `m` stand to each other: C the unsigned order, Z equality, N and V the signed order. -/
structure State.Compared {w : Nat} (t : State) (x m : BitVec w) : Prop where
  c : t.flag .c = decide (x.toNat < m.toNat)
  z : t.flag .z = decide (x = m)
  lt : (t.flag .n != t.flag .v) = decide (x.toInt < m.toInt)

/-- N differs from V where the exact difference is negative: its sign is N if the signs of the operands agree, and else
that of the minuend. -/
theorem sign_of_exact_difference (x m r : Bool) : (r != (x != m && r != x)) = if x = m then r else x := by
  revert x m r
  decide

/-- That sign is the signed order, for numbers modulo `2 * N` of which those from `N` on stand for the negative ones. -/
theorem signed_lt_iff {N x m r : Nat} (hx : x < 2 * N) (hm : m < 2 * N) (hr : r < 2 * N)
    (hdiff : x = m + r ∨ x + 2 * N = m + r) :
    (if N ≤ x ↔ N ≤ m then N ≤ r else N ≤ x) ↔
      (if N ≤ x then (x : Int) - (2 * N : Nat) else x) < (if N ≤ m then (m : Int) - (2 * N : Nat) else m) := by
  split_ifs <;> omega

theorem sign_of_sub {n : Nat} (x m : BitVec (n + 1)) :
    (if x.msb = m.msb then (x - m).msb else x.msb) = decide (x.toInt < m.toInt) := by
  have hpow : 2 ^ (n + 1) = 2 * 2 ^ n := Nat.pow_succ'
  have h := signed_lt_iff (hpow ▸ x.isLt) (hpow ▸ m.isLt) (hpow ▸ (x - m).isLt) (hpow ▸ sub_toNat x m)
  rw [Bool.eq_iff_iff, decide_eq_true_eq]
  simpa only [BitVec.toInt_eq_msb_cond, BitVec.msb_eq_decide, decide_eq_decide, Nat.add_sub_cancel, hpow,
    decide_eq_true_eq, apply_ite (· = true)] using h

/-- The flags of a difference tell the order of its operands (R243, R244, R258). -/
theorem Compared_aluFlags {n : Nat} (s : State) (x m : BitVec (n + 1)) :
    (s.aluFlags (.ofDifference x m (x - m) (decide (x.toNat < m.toNat)))).Compared x m where
  c := by simp [Alu.ofDifference]
  z := by
    have hz : (x - m == 0) = decide (x = m) := by rw [Bool.eq_iff_iff, beq_iff_eq, decide_eq_true_eq, sub_eq_zero]
    simpa [Alu.ofDifference] using hz
  lt := by
    simp only [flag_aluFlags, Alu.ofDifference, reduceCtorEq, if_true, if_false]
    rw [sign_of_exact_difference, sign_of_sub]

/-- The branches of R372 that compare, each with whether it is taken after `x` was compared with `m`. -/
def orderBranches {w : Nat} (x m : BitVec w) : List ((Byte → Instr) × Bool) :=
  [(.bhi, decide (m.toNat < x.toNat)), (.bhs, decide (m.toNat ≤ x.toNat)), (.blo, decide (x.toNat < m.toNat)),
   (.bls, decide (x.toNat ≤ m.toNat)), (.bgt, decide (m.toInt < x.toInt)), (.bge, decide (m.toInt ≤ x.toInt)),
   (.blt, decide (x.toInt < m.toInt)), (.ble, decide (x.toInt ≤ m.toInt)), (.beq, decide (x = m)), (.bne, decide (x ≠ m))]

theorem branchIf_of_eq {c d : Bool} (h : c = d) (rr : Byte) (t : State) :
    ∃ u, branchIf c rr t = .next u ∧ u.pc = if d then t.pc + rr.signExtend 16 else t.pc :=
  ⟨_, rfl, by rw [h, branch_pc, State.relTarget]⟩

/-! The other relations from "below" and "equal", for unsigned and signed numbers alike (R372). -/

section
variable {α : Type} [LinearOrder α] (a b : α)

theorem gt_of_flags : (!decide (a < b) && !decide (a = b)) = decide (b < a) := by
  rw [← decide_not, ← decide_not, ← Bool.decide_and, decide_eq_decide, not_lt, ← ne_eq, ne_comm, ← lt_iff_le_and_ne]

theorem ge_of_flags : (!decide (a < b)) = decide (b ≤ a) := by rw [← decide_not, decide_eq_decide, not_lt]

theorem le_of_flags : (decide (a < b) || decide (a = b)) = decide (a ≤ b) := by
  rw [← Bool.decide_or, decide_eq_decide, le_iff_lt_or_eq]

end

/-- A branch in a state whose flags tell the order of `x` and `m` is taken exactly if its relation holds (R372). -/
theorem branch_of_Compared {w : Nat} {t : State} {x m : BitVec w} (h : t.Compared x m) (rr : Byte) :
    ∀ p ∈ orderBranches x m,
      ∃ u, exec (p.1 rr) t = .next u ∧ u.pc = if p.2 then t.pc + rr.signExtend 16 else t.pc := by
  have hzn : t.flag .z = decide (x.toNat = m.toNat) := by rw [h.z]; exact decide_eq_decide.2 BitVec.toNat_inj.symm
  have hzi : t.flag .z = decide (x.toInt = m.toInt) := by rw [h.z]; exact decide_eq_decide.2 BitVec.toInt_inj.symm
  have hge : (t.flag .n == t.flag .v) = !decide (x.toInt < m.toInt) := by rw [← h.lt, bne, Bool.not_not]
  simp only [orderBranches, List.forall_mem_cons]
  refine ⟨branchIf_of_eq ?hi rr t, branchIf_of_eq ?hs rr t, branchIf_of_eq h.c rr t, branchIf_of_eq ?ls rr t,
    branchIf_of_eq ?gt rr t, branchIf_of_eq ?ge rr t, branchIf_of_eq h.lt rr t, branchIf_of_eq ?le rr t,
    branchIf_of_eq h.z rr t, branchIf_of_eq ?ne rr t, nofun⟩
  case hi => rw [h.c, hzn, gt_of_flags]
  case hs => rw [h.c, ge_of_flags]
  case ls => rw [h.c, hzn, le_of_flags]
  case gt => rw [hzi, hge, Bool.and_comm, gt_of_flags]
  case ge => rw [hge, ge_of_flags]
  case le => rw [hzi, h.lt, Bool.or_comm, le_of_flags]
  case ne => rw [h.z, decide_not]

/-- CMPA and CMPB once the operand has been read (R259, R260). -/
theorem cmpMem8_of_opnd8 {s s1 : State} {r : Reg8} {op : Src8} {m : Byte} (h : s.opnd8 op = .ok (m, s1)) :
    cmpMem8 r op s = .next (s1.aluFlags
      (.ofDifference (s.get8 r) m (s.get8 r - m) (decide ((s.get8 r).toNat < m.toNat)))) := by
  rw [← get8_of_Operand (opnd8_frame s op m s1 h), ← sub8_false_eq, cmpMem8, h, ok_bind, outcome_ok]

/-- CPD, CPX, CPY and CPS once the operand has been read, in every form but the overlap of R152 (R261 to R264). -/
theorem cmpMem16_of_opnd16 {s s1 : State} {r : Reg16} {op : Src16} {m : Word} (h : s.opnd16 op = .ok (m, s1))
    (ho : overlaps (src16Auto op) (reg16Auto r) = false) :
    cmpMem16 r op s = .next (s1.aluFlags
      (.ofDifference (s.get16 r) m (s.get16 r - m) (decide ((s.get16 r).toNat < m.toNat)))) := by
  rw [← get16_of_Operand (opnd16_frame s op m s1 h) ho, ← sub16_eq, cmpMem16, ho, refuseIf_false, h, ok_bind, outcome_ok]

/-- No operand adjusts A or B (R145), so that CPD has no overlap (R152). -/
theorem overlaps_d (auto : Option AutoReg) : overlaps auto (reg16Auto .d) = false := by cases auto <;> rfl

/-- Settles O15: a compare leaves the flags of a difference, and these tell the order of its operands. -/
theorem compareThenBranch : Obligations.CompareThenBranch := by
  constructor
  · intro s s1 t op m rr hop ht
    obtain rfl := Host.Outcome.next.inj ((cmpMem8_of_opnd8 (r := .a) hop).symm.trans ht)
    exact branch_of_Compared (Compared_aluFlags s1 s.a m) rr
  · intro s s1 t op m rr hop ht
    obtain rfl := Host.Outcome.next.inj ((cmpMem16_of_opnd16 (r := .d) hop (overlaps_d _)).symm.trans ht)
    exact branch_of_Compared (Compared_aluFlags s1 s.d m) rr

end Sys2Proof.Machine
end

section
/-! PROOFS. The arithmetic instructions (R245 to R287, R309 to R311): an operand evaluated or a byte of memory modified, a
register written, and the flags of the result. -/

namespace Sys2Proof.Machine

/-! ## Writes of flags -/

theorem Writes_putFlag (s : State) (f : Flag) (v : Bool) : s.Writes (s.putFlag f v) [] [(f, v)] [] where
  effect :=
    { regs := fun q _ => by cases q <;> rfl
      flagsSet := by simp
      flagsKept := fun g hg _ => by
        rw [flag_putFlag, if_neg]
        simpa using hg
      stopped := rfl
      inputs := rfl
      cfg := rfl }
  mem := fun _ => rfl
  pc := rfl

theorem Writes_putNZV (s : State) (n z v : Bool) : s.Writes (s.putNZV n z v) [] [(.n, n), (.z, z), (.v, v)] [] :=
  Writes_trans (Writes_trans (Writes_putFlag s .n n) (Writes_putFlag _ .z z)) (Writes_putFlag _ .v v)

theorem Writes_putNZVC (s : State) (n z v c : Bool) :
    s.Writes (s.putNZVC n z v c) [] [(.n, n), (.z, z), (.v, v), (.c, c)] [] :=
  Writes_trans (Writes_putNZV s n z v) (Writes_putFlag _ .c c)

theorem Writes_aluFlags {w : Nat} (s : State) (q : Alu w) :
    s.Writes (s.aluFlags q) [] [(.n, q.n), (.z, q.z), (.v, q.v), (.c, q.c)] [] := Writes_putNZVC s q.n q.z q.v q.c

theorem Writes_addFlags (s : State) (x m : Byte) (cin : Bool) :
    s.Writes (s.addFlags x m cin) [] [(.h, add8H x m cin), (.n, (add8 x m cin).n), (.z, (add8 x m cin).z),
      (.v, (add8 x m cin).v), (.c, (add8 x m cin).c)] [] :=
  Writes_trans (Writes_putFlag s .h _) (Writes_aluFlags _ _)

/-- A change of registers and then of flags only. -/
theorem Writes_then_flags {s t u : State} {l : List RegName} {fl : List (Flag × Bool)} (h : s.Writes t l [] [])
    (h' : t.Writes u [] fl []) : s.Writes u l fl [] := by
  simpa using Writes_trans h h'

theorem reg_of_Writes_flags {s t : State} {fl : List (Flag × Bool)} {free : List Flag} (h : s.Writes t [] fl free)
    (q : RegName) : t.reg q = s.reg q := h.effect.regs q List.not_mem_nil

/-! ## Instructions with an operand -/

theorem Completes_imp {i : Instr} {s : State} {regs : List RegName} {flags : List (Flag × Bool)} {P Q : State → Prop}
    (h : Completes i s regs flags P) (hpq : ∀ t, P t → Q t) : Completes i s regs flags Q := by
  obtain ⟨t, hrun, heff, hmem, hpc, hp⟩ := h
  exact ⟨t, hrun, heff, hmem, hpc, hpq t hp⟩

/-- An instruction that evaluates an operand and then writes registers, none of which the operand adjusts, and flags. -/
theorem Completes_of_Operand {i : Instr} {s s1 t : State} {l l' : List RegName} {flags : List (Flag × Bool)}
    {post : State → Prop} (he : exec i s = .next t) (hop : s.Operand s1 l) (hw : s1.Writes t l' flags [])
    (hl : ∀ n ∈ l', n ∉ l) (hp : post t) :
    Completes i s (l' ++ l) flags fun t => post t ∧ ∀ q ∈ l, t.reg q = s1.reg q :=
  Completes_of_Writes he
    (Writes_subset (Writes_trans (Writes_of_Operand hop) hw) fun q hq => List.mem_append.2 (List.mem_append.1 hq).symm)
    ⟨hp, fun q hq => hw.effect.regs q fun hn => hl q hn hq⟩

/-- An instruction that evaluates an operand and then writes flags only. -/
theorem Completes_of_Operand_flags {i : Instr} {s s1 t : State} {l : List RegName} {flags : List (Flag × Bool)}
    (he : exec i s = .next t) (hop : s.Operand s1 l) (hw : s1.Writes t [] flags []) :
    Completes i s l flags fun t => ∀ q ∈ l, t.reg q = s1.reg q :=
  Completes_imp (Completes_of_Operand (post := fun _ => True) he hop hw nofun trivial) fun _ => And.right

/-! ## Addition -/

theorem addMem8_of_opnd8 {s s1 : State} {r : Reg8} {withC : Bool} {op : Src8} {m : Byte}
    (h : s.opnd8 op = .ok (m, s1)) :
    addMem8 r withC op s = .next (s1.addInto r m (withC && s.flag .c)) := by
  rw [← Operand_flag (opnd8_frame s op m s1 h), addMem8, h, ok_bind, outcome_ok]

/-- What an 8-bit addition writes (R242). -/
theorem Writes_addInto (s : State) (r : Reg8) (m : Byte) (cin : Bool) {x res : Byte} (hx : s.get8 r = x)
    (hres : res = x + m + BitVec.ofNat 8 cin.toNat) :
    s.Writes (s.addInto r m cin) (reg8Names r)
      [(.h, decide (15 < x.toNat % 16 + m.toNat % 16 + cin.toNat)), (.n, res.msb), (.z, res == 0),
       (.v, x.msb == m.msb && res.msb != x.msb), (.c, decide (255 < x.toNat + m.toNat + cin.toNat))] [] := by
  have h := Writes_then_flags (Writes_set8 s r (add8 x m cin).r) (Writes_addFlags _ x m cin)
  rw [add8_eq, ← hres] at h
  rw [State.addInto, hx, add8_eq, ← hres]
  exact h

theorem get8_addInto (s : State) (r : Reg8) (m : Byte) (cin : Bool) :
    (s.addInto r m cin).get8 r = s.get8 r + m + BitVec.ofNat 8 cin.toNat := by
  rw [State.addInto, add8_eq]
  cases r <;> rfl

/-- A sum or difference of D and an operand: the result in D, and its flags (R251, R257). -/
theorem accD_completes {i : Instr} {s s1 : State} {op : Src16} {m : Word} {q : Alu 16}
    (he : exec i s = .next ((s1.set16 .d q.r).aluFlags q)) (hop : s.opnd16 op = .ok (m, s1)) :
    Completes i s ([.a, .b] ++ adjusts (src16Auto op)) [(.n, q.n), (.z, q.z), (.v, q.v), (.c, q.c)] fun t =>
      t.d = q.r ∧ ∀ n ∈ adjusts (src16Auto op), t.reg n = s1.reg n :=
  Completes_of_Operand he (opnd16_frame s op m s1 hop) (Writes_then_flags (Writes_set16 s1 .d q.r) (Writes_aluFlags _ q))
    (not_mem_adjusts_of_overlaps (overlaps_d _)) (get16_set16 s1 .d q.r)

theorem addd_of_opnd16 {s s1 : State} {op : Src16} {m : Word} (h : s.opnd16 op = .ok (m, s1)) :
    exec (.addd op) s = .next ((s1.set16 .d (add16 s.d m).r).aluFlags (add16 s.d m)) := by
  show execAddd op s = _
  rw [← Operand_d (opnd16_frame s op m s1 h), execAddd, h, ok_bind, outcome_ok, State.set16]

/-- Settles O43: the 8-bit additions are one operation, without an operand in memory for ABA; ADDD is that on D. -/
theorem addInstructions : Obligations.AddInstructions := by
  refine ⟨fun p hp op s s1 m hop x k r hx hk hr => ?add8, fun s r hr => ?aba, fun op s s1 m r hop hr => ?addd⟩
  case add8 =>
    have hexec : exec (p.2.1 op) s = addMem8 p.1 p.2.2 op s := by fin_cases hp <;> rfl
    have hframe := opnd8_frame s op m s1 hop
    have hx1 : s1.get8 p.1 = x := (get8_of_Operand hframe p.1).trans hx.symm
    obtain rfl : k = (p.2.2 && s.flag .c).toNat := by rw [hk, Bool.toNat, Bool.cond_eq_ite]
    exact Completes_of_Operand (hexec.trans (addMem8_of_opnd8 hop)) hframe (Writes_addInto s1 p.1 m _ hx1 hr)
      (not_mem_adjusts_of_reg8Names _ p.1) (by rw [get8_addInto, hx1, hr])
  case aba =>
    have hr' : r = s.a + s.b + BitVec.ofNat 8 false.toNat := hr.trans (BitVec.add_zero _).symm
    exact Completes_of_Writes rfl (Writes_addInto s .a s.b false rfl hr') ((get8_addInto s .a s.b false).trans hr'.symm)
  case addd =>
    subst hr
    have hrun := addd_of_opnd16 hop
    rw [add16_eq] at hrun
    exact accD_completes hrun hop

/-! ## Subtraction -/

theorem subMem8_of_opnd8 {s s1 : State} {r : Reg8} {withC : Bool} {op : Src8} {m : Byte}
    (h : s.opnd8 op = .ok (m, s1)) :
    subMem8 r withC op s = .next (s1.subInto r m (withC && s.flag .c)) := by
  rw [← Operand_flag (opnd8_frame s op m s1 h), subMem8, h, ok_bind, outcome_ok]

/-- What an 8-bit subtraction writes (R243). -/
theorem Writes_subInto (s : State) (r : Reg8) (m : Byte) (bin : Bool) {x res : Byte} (hx : s.get8 r = x)
    (hres : res = x - m - BitVec.ofNat 8 bin.toNat) :
    s.Writes (s.subInto r m bin) (reg8Names r)
      [(.n, res.msb), (.z, res == 0), (.v, x.msb != m.msb && res.msb != x.msb),
       (.c, decide (x.toNat < m.toNat + bin.toNat))] [] := by
  have h := Writes_then_flags (Writes_set8 s r (sub8 x m bin).r) (Writes_aluFlags _ (sub8 x m bin))
  rw [sub8_eq, ← hres] at h
  rw [State.subInto, hx, sub8_eq, ← hres]
  exact h

theorem get8_subInto (s : State) (r : Reg8) (m : Byte) (bin : Bool) :
    (s.subInto r m bin).get8 r = s.get8 r - m - BitVec.ofNat 8 bin.toNat := by
  rw [State.subInto, sub8_eq]
  cases r <;> rfl

theorem subd_of_opnd16 {s s1 : State} {op : Src16} {m : Word} (h : s.opnd16 op = .ok (m, s1)) :
    exec (.subd op) s = .next ((s1.set16 .d (sub16 s.d m).r).aluFlags (sub16 s.d m)) := by
  show execSubd op s = _
  rw [← Operand_d (opnd16_frame s op m s1 h), execSubd, h, ok_bind, outcome_ok, State.set16]

/-- Settles O44: the 8-bit subtractions are one operation, without an operand in memory for SBA; SUBD is that on D. -/
theorem subtractInstructions : Obligations.SubtractInstructions := by
  refine ⟨fun p hp op s s1 m hop x k r hx hk hr => ?sub8, fun s r hr => ?sba, fun op s s1 m r hop hr => ?subd⟩
  case sub8 =>
    have hexec : exec (p.2.1 op) s = subMem8 p.1 p.2.2 op s := by fin_cases hp <;> rfl
    have hframe := opnd8_frame s op m s1 hop
    have hx1 : s1.get8 p.1 = x := (get8_of_Operand hframe p.1).trans hx.symm
    obtain rfl : k = (p.2.2 && s.flag .c).toNat := by rw [hk, Bool.toNat, Bool.cond_eq_ite]
    exact Completes_of_Operand (hexec.trans (subMem8_of_opnd8 hop)) hframe (Writes_subInto s1 p.1 m _ hx1 hr)
      (not_mem_adjusts_of_reg8Names _ p.1) (by rw [get8_subInto, hx1, hr])
  case sba =>
    have hr' : r = s.a - s.b - BitVec.ofNat 8 false.toNat := hr.trans (BitVec.sub_zero _).symm
    exact Completes_of_Writes rfl (Writes_subInto s .a s.b false rfl hr') ((get8_subInto s .a s.b false).trans hr'.symm)
  case subd =>
    subst hr
    have hrun := subd_of_opnd16 hop
    rw [sub16_eq] at hrun
    exact accD_completes hrun hop

/-! ## Comparison -/

/-- Settles O45: a compare evaluates its operand and writes the flags of the difference; CBA has no operand in memory. -/
theorem compareInstructions : Obligations.CompareInstructions := by
  refine ⟨fun p hp op s s1 m x r hop hx hr => ?cmp8, fun s r hr => ?cba, fun p hp op s s1 m x r hop ho hx hr => ?cmp16⟩
  case cmp8 =>
    subst hx hr
    have hexec : exec (p.2 op) s = cmpMem8 p.1 op s := by fin_cases hp <;> rfl
    exact Completes_of_Operand_flags (hexec.trans (cmpMem8_of_opnd8 hop)) (opnd8_frame s op m s1 hop) (Writes_aluFlags s1 _)
  case cba =>
    subst hr
    have hrun : exec .cba s = .next (s.aluFlags (sub8 s.a s.b false)) := rfl
    rw [sub8_false_eq] at hrun
    exact Completes_of_Writes hrun (Writes_aluFlags s _) trivial
  case cmp16 =>
    subst hx hr
    have hexec : exec (p.2 op) s = cmpMem16 p.1 op s := by fin_cases hp <;> rfl
    exact Completes_of_Operand_flags (hexec.trans (cmpMem16_of_opnd16 hop ho)) (opnd16_frame s op m s1 hop)
      (Writes_aluFlags s1 _)

/-! ## Index registers -/

/-- What a count step writes (R269, R270, R274, R275). -/
theorem Writes_count16 (s : State) (r : Reg16) (v : Word) : s.Writes (s.count16 r v) (reg16Names r) [(.z, v == 0)] [] :=
  Writes_then_flags (Writes_set16 s r v) (Writes_putFlag _ .z _)

theorem get16_putFlag (s : State) (f : Flag) (v : Bool) (r : Reg16) : (s.putFlag f v).get16 r = s.get16 r := by
  cases r <;> rfl

theorem count16_completes {i : Instr} {s : State} {r : Reg16} {v res : Word} (he : exec i s = .next (s.count16 r v))
    (hv : v = res) : Completes i s (reg16Names r) [(.z, res == 0)] fun t => t.get16 r = res := by
  subst hv
  exact Completes_of_Writes he (Writes_count16 s r v) ((get16_putFlag _ .z _ r).trans (get16_set16 s r v))

theorem sub_one_of_toNat {v r : Word} (h : (r.toNat : Int) = ((v.toNat : Int) - 1) % 65536) : v - 1 = r := by
  bv_omega

theorem add_one_of_toNat {v r : Word} (h : r.toNat = (v.toNat + 1) % 65536) : v + 1 = r := by bv_omega

/-- Settles O47: the four are one count step. -/
theorem indexCount : Obligations.IndexCount :=
  ⟨fun _ => ⟨rfl, rfl, rfl, rfl⟩, fun _ _ h => count16_completes (r := .x) rfl (sub_one_of_toNat h),
    fun _ _ h => count16_completes (r := .y) rfl (sub_one_of_toNat h),
    fun _ _ h => count16_completes (r := .x) rfl (add_one_of_toNat h),
    fun _ _ h => count16_completes (r := .y) rfl (add_one_of_toNat h)⟩

/-! ## One-operand instructions -/

/-- What a one-operand operation does to the flags and to its operand, in memory and in an accumulator alike (R245): the
result `g` and the flags `fl`, from the old C and the operand. -/
structure OpSpec (op : State → Byte → Byte × State) (g : Bool → Byte → Byte)
    (fl : Bool → Byte → List (Flag × Bool)) : Prop where
  result : ∀ (s : State) (v : Byte), (op s v).1 = g (s.flag .c) v
  flags : ∀ (s : State) (v : Byte), s.Writes (op s v).2 [] (fl (s.flag .c) v) []
  mem : ∀ (s : State) (v : Byte), (op s v).2.mem = s.mem

section
variable {op : State → Byte → Byte × State} {g : Bool → Byte → Byte} {fl : Bool → Byte → List (Flag × Bool)}

/-- On an accumulator. -/
theorem modifyAcc_completes {i : Instr} {s : State} {r : Reg8} (h : OpSpec op g fl)
    (he : exec i s = .next (modifyAcc op r s)) :
    Completes i s (reg8Names r) (fl (s.flag .c) (s.get8 r)) fun t => t.get8 r = g (s.flag .c) (s.get8 r) := by
  have hw := Writes_trans (h.flags s (s.get8 r)) (Writes_set8 _ r (op s (s.get8 r)).1)
  rw [List.append_nil] at hw
  exact Completes_of_Writes he hw ((get8_set8 _ r _).trans (h.result s _))

/-- On a byte of plain memory. -/
theorem modify8_completes {i : Instr} {s s1 : State} {m : Mem} {ea : Word} (h : OpSpec op g fl)
    (he : exec i s = outcome (modify8 op m s)) (hw : Memory.wf s.mem) (hea : s.ea m = .ok (ea, s1))
    (hr : s.PlainAt .read ea) (hp : s.PlainAt .write ea) :
    CompletesStore i s (adjusts (memAuto m)) (fl (s.flag .c) (s.byteAt ea)) ea 1 fun t =>
      t.byteAt ea = g (s.flag .c) (s.byteAt ea) ∧ ∀ q ∈ adjusts (memAuto m), t.reg q = s1.reg q := by
  have hop := ea_frame s m ea s1 hea
  have hflags := h.flags s1 (s.byteAt ea)
  have hwrites := Writes_trans (Writes_of_Operand hop) hflags
  have hmem : (op s1 (s.byteAt ea)).2.mem = s.mem := (h.mem s1 _).trans (Operand_mem hop)
  have hplain := (PlainAt_congr s _ .write ea hwrites.effect.cfg).2 hp
  obtain ⟨t, hrun, ht, hbut, hbyte⟩ := write8_stored _ ea (op s1 (s.byteAt ea)).1 (hmem ▸ hw) hplain
  rw [h.result, Operand_flag hop] at hbyte
  rw [Operand_flag hop, List.append_nil] at hwrites
  exact CompletesStore_of_Writes (by rw [he, modify8_of_plain hea hr, hrun, outcome_ok]) hwrites ht hbut
    ⟨hbyte, fun q _ => (reg_of_memory ht q).trans (reg_of_Writes_flags hflags q)⟩

/-- An operation that its specification describes gives an instruction of the shape of R245. -/
theorem OneOperand_of_OpSpec {f : Mem → Instr} {onA onB : Instr} (h : OpSpec op g fl)
    (hf : ∀ m s, exec (f m) s = outcome (modify8 op m s)) (hA : ∀ s, exec onA s = .next (modifyAcc op .a s))
    (hB : ∀ s, exec onB s = .next (modifyAcc op .b s)) : OneOperand f onA onB g fl :=
  ⟨fun m s _ _ hw hea hr hp => modify8_completes h (hf m s) hw hea hr hp, fun s => modifyAcc_completes h (hA s),
    fun s => modifyAcc_completes h (hB s)⟩

end

/-- The forms of R245 are those that the encoder writes. -/
theorem OneOperandForms_of_decode {n : Byte} {f : Mem → Instr} {onA onB : Instr}
    (hA : ∀ rest, decode ((0x40 + n) :: rest) = .ok (onA, rest)) (hB : ∀ rest, decode ((0x50 + n) :: rest) = .ok (onB, rest))
    (hext : ∀ a rest, decode (rmwBytes n (.ext a) ++ rest) = .ok (f (.ext a), rest))
    (hidx : ∀ i rest, decode (rmwBytes n (.idx i) ++ rest) = .ok (f (.idx i), rest)) : OneOperandForms n f onA onB := by
  refine fun rest => ⟨hA rest, hB rest, fun hh ll => ?ext, fun i => hidx i rest⟩
  case ext =>
    have h := hext (mkWord hh ll) rest
    rwa [rmwBytes, Mem.encodeOp, wordBytes_mkWord] at h

theorem OpSpec_inc : OpSpec incOp (fun _ v => v + 1) fun _ v => [(.n, (v + 1).msb), (.z, v + 1 == 0), (.v, v == 0x7F)] :=
  ⟨fun _ _ => rfl, fun s v => Writes_putNZV s (v + 1).msb (v + 1 == 0) (v == 0x7F), fun _ _ => putNZV_mem _ _ _ _⟩

theorem OpSpec_dec : OpSpec decOp (fun _ v => v - 1) fun _ v => [(.n, (v - 1).msb), (.z, v - 1 == 0), (.v, v == 0x80)] :=
  ⟨fun _ _ => rfl, fun s v => Writes_putNZV s (v - 1).msb (v - 1 == 0) (v == 0x80), fun _ _ => putNZV_mem _ _ _ _⟩

/-- Settles O48: INC and DEC are the shape of R245 with an operation that writes N, Z and V. -/
theorem incrementDecrement : Obligations.IncrementDecrement :=
  ⟨⟨OneOperandForms_of_decode (fun _ => rfl) (fun _ => rfl) (fun a rest => decodeEncode (.inc (.ext a)) rest rfl)
      fun i rest => decodeEncode (.inc (.idx i)) rest rfl,
    OneOperandForms_of_decode (fun _ => rfl) (fun _ => rfl) (fun a rest => decodeEncode (.dec (.ext a)) rest rfl)
      fun i rest => decodeEncode (.dec (.idx i)) rest rfl⟩,
    OneOperand_of_OpSpec OpSpec_inc (fun _ _ => rfl) (fun _ => rfl) fun _ => rfl,
    OneOperand_of_OpSpec OpSpec_dec (fun _ _ => rfl) (fun _ => rfl) fun _ => rfl⟩

/-- Negation leaves 0 and $80 as they are, and makes them of no other byte (R276). -/
theorem OpSpec_neg :
    OpSpec negOp (fun _ v => -v) fun _ v => [(.n, (-v).msb), (.z, v == 0), (.v, v == 0x80), (.c, v != 0)] := by
  refine ⟨fun _ v => BitVec.zero_sub v, fun s v => ?_, fun _ _ => putNZVC_mem _ _ _ _ _⟩
  have hn : (0 - v).msb = (-v).msb := congrArg BitVec.msb (BitVec.zero_sub v)
  have hz : (0 - v == 0) = (v == 0) := by rw [Bool.eq_iff_iff, beq_iff_eq, beq_iff_eq]; bv_omega
  have hv : (0 - v == 0x80) = (v == 0x80) := by rw [Bool.eq_iff_iff, beq_iff_eq, beq_iff_eq]; bv_omega
  have h : s.Writes (negOp s v).2 [] [(.n, (0 - v).msb), (.z, 0 - v == 0), (.v, 0 - v == 0x80), (.c, !(0 - v == 0))] [] :=
    Writes_putNZVC s _ _ _ _
  rwa [hn, hz, hv] at h

/-- The complement is the distance to $FF (R309). -/
theorem OpSpec_com :
    OpSpec comOp (fun _ v => 0xFF - v) fun _ v => [(.n, !v.msb), (.z, v == 0xFF), (.v, false), (.c, true)] := by
  refine ⟨fun _ v => (BitVec.allOnes_sub_eq_not v).symm, fun s v => ?_, fun _ _ => putNZVC_mem _ _ _ _ _⟩
  have hn : (~~~v).msb = !v.msb := BitVec.msb_not
  have hz : (~~~v == 0) = (v == 0xFF) := by rw [Bool.eq_iff_iff, beq_iff_eq, beq_iff_eq]; bv_omega
  have h : s.Writes (comOp s v).2 [] [(.n, (~~~v).msb), (.z, ~~~v == 0), (.v, false), (.c, true)] [] :=
    Writes_putNZVC s _ _ _ _
  rwa [hn, hz] at h

/-! ## Clear and test -/

theorem Writes_clearFlags (s : State) :
    s.Writes s.clearFlags [] [(.n, false), (.z, true), (.v, false), (.c, false)] [] := Writes_putNZVC s _ _ _ _

theorem Writes_testFlags (s : State) (v : Byte) :
    s.Writes (s.testFlags v) [] [(.n, v.msb), (.z, v == 0), (.v, false), (.c, false)] [] := Writes_putNZVC s _ _ _ _

/-- The flags of a clear, written after memory or before. -/
theorem clearFlags_of_memory {s u : State} (hu : u = { s with mem := u.mem, stale := u.stale }) :
    u.clearFlags = { s.clearFlags with mem := u.clearFlags.mem, stale := u.clearFlags.stale } := by
  rw [clearFlags_mem, clearFlags_stale]
  exact congrArg State.clearFlags hu

/-- CLR to plain memory, with no condition on reading there (R279, D23). -/
theorem clr_completes {s s1 : State} {m : Mem} {ea : Word} (hw : Memory.wf s.mem) (hea : s.ea m = .ok (ea, s1))
    (hp : s.PlainAt .write ea) :
    CompletesStore (.clr m) s (adjusts (memAuto m)) [(.n, false), (.z, true), (.v, false), (.c, false)] ea 1 fun t =>
      t.byteAt ea = 0 ∧ ∀ q ∈ adjusts (memAuto m), t.reg q = s1.reg q := by
  have hop := ea_frame s m ea s1 hea
  obtain ⟨u, hwrite, hu, hbut, hbyte⟩ :=
    write8_stored s1 ea 0 (Operand_mem hop ▸ hw) ((Operand_PlainAt hop _ _).2 hp)
  have hrun : exec (.clr m) s = .next u.clearFlags := by
    show execClr m s = _
    simp only [execClr, hea, ok_bind, hwrite, outcome_ok]
  have hflags := Writes_clearFlags s1
  have hwrites := Writes_trans (Writes_of_Operand hop) hflags
  rw [List.append_nil] at hwrites
  have ht := clearFlags_of_memory hu
  exact CompletesStore_of_Writes hrun hwrites ht hbut
    ⟨hbyte, fun q _ => (reg_of_memory ht q).trans (reg_of_Writes_flags hflags q)⟩

theorem clrAcc_completes {i : Instr} {s : State} {r : Reg8} (he : exec i s = .next (s.set8 r 0).clearFlags) :
    Completes i s (reg8Names r) [(.n, false), (.z, true), (.v, false), (.c, false)] fun t => t.get8 r = 0 :=
  Completes_of_Writes he (Writes_then_flags (Writes_set8 s r 0) (Writes_clearFlags _)) (by cases r <;> rfl)

/-- TST of a byte of plain memory (R282). -/
theorem tst_of_plain {s s1 : State} {m : Mem} {ea : Word} (hea : s.ea m = .ok (ea, s1)) (h : s.PlainAt .read ea) :
    exec (.tst m) s = .next (s1.testFlags (s.byteAt ea)) := by
  have hop := ea_frame s m ea s1 hea
  have hread := read8_plain s1 ea ((Operand_PlainAt hop _ _).2 h)
  rw [Operand_byteAt hop] at hread
  show execTst m s = _
  simp only [execTst, hea, ok_bind, hread, outcome_ok]

/-- Settles O49: NEG and COM are the shape of R245; CLR writes and does not read, TST reads and does not write. -/
theorem negateComplementClearTest : Obligations.NegateComplementClearTest :=
  ⟨OneOperand_of_OpSpec OpSpec_neg (fun _ _ => rfl) (fun _ => rfl) fun _ => rfl,
    OneOperand_of_OpSpec OpSpec_com (fun _ _ => rfl) (fun _ => rfl) fun _ => rfl,
    fun _ _ _ _ hw hea hp => clr_completes hw hea hp,
    fun _ => clrAcc_completes (r := .a) rfl,
    fun _ => clrAcc_completes (r := .b) rfl,
    fun m s ea s1 hea hr =>
      Completes_of_Operand_flags (tst_of_plain hea hr) (ea_frame s m ea s1 hea) (Writes_testFlags s1 _),
    fun s => Completes_of_Writes rfl (Writes_testFlags s s.a) trivial,
    fun s => Completes_of_Writes rfl (Writes_testFlags s s.b) trivial⟩

/-! ## Multiply and divide -/

/-- A product of two bytes fits into a word. -/
theorem byte_mul_lt (x m : Byte) : x.toNat * m.toNat < 65536 := Nat.mul_lt_mul'' x.isLt m.isLt

/-- The state after a division: the quotient in X, the remainder in D, and the flags Z, V and C (R286, R287). -/
def State.divided (s : State) (q r : Word) (z v c : Bool) : State :=
  ((((s.set16 .x q).set16 .d r).putFlag .z z).putFlag .v v).putFlag .c c

theorem Writes_divided (s : State) (q r : Word) (z v c : Bool) :
    s.Writes (s.divided q r z v c) [.a, .b, .x] [(.z, z), (.v, v), (.c, c)] [] := by
  have hregs := Writes_trans (Writes_set16 s .x q) (Writes_set16 _ .d r)
  have hflags := Writes_trans (Writes_trans (Writes_putFlag ((s.set16 .x q).set16 .d r) .z z) (Writes_putFlag _ .v v))
    (Writes_putFlag _ .c c)
  exact Writes_subset (Writes_then_flags hregs hflags) (by simp [reg16Names])

theorem divided_x (s : State) (q r : Word) (z v c : Bool) : (s.divided q r z v c).x = q := rfl

theorem divided_d (s : State) (q r : Word) (z v c : Bool) : (s.divided q r z v c).d = r := mkWord_hiByte_loByte r

/-- A division that has a quotient: X and D take the quotient and the remainder of `n` by X, and Z says whether the
quotient is zero. -/
theorem division_completes {i : Instr} {s : State} {n : Nat}
    (he : exec i s = .next (s.divided (BitVec.ofNat 16 (n / s.x.toNat)) (BitVec.ofNat 16 (n % s.x.toNat))
      (BitVec.ofNat 16 (n / s.x.toNat) == 0) false false))
    (hx : 0 < s.x.toNat) (hq : n / s.x.toNat < 65536) :
    Completes i s [.a, .b, .x] [(.z, decide (n < s.x.toNat)), (.v, false), (.c, false)] fun t =>
      t.x.toNat = n / s.x.toNat ∧ t.d.toNat = n % s.x.toNat := by
  have hqn : (BitVec.ofNat 16 (n / s.x.toNat)).toNat = n / s.x.toNat := by rw [BitVec.toNat_ofNat, Nat.mod_eq_of_lt hq]
  have hrn : (BitVec.ofNat 16 (n % s.x.toNat)).toNat = n % s.x.toNat := by
    rw [BitVec.toNat_ofNat, Nat.mod_eq_of_lt ((Nat.mod_lt n hx).trans s.x.isLt)]
  have hz : (BitVec.ofNat 16 (n / s.x.toNat) == 0) = decide (n < s.x.toNat) := by
    rw [Bool.eq_iff_iff, beq_iff_eq, decide_eq_true_eq, ← BitVec.toNat_inj, hqn, ← Nat.div_eq_zero_iff_lt hx]
    rfl
  rw [hz] at he
  exact Completes_of_Writes he (Writes_divided s _ _ _ _ _) ⟨hqn, by rw [divided_d, hrn]⟩

/-- A division that has none: X is $FFFF, and D a free value (D21). -/
theorem no_quotient_completes {i : Instr} {s : State} {r : Word} {v c : Bool}
    (he : exec i s = .next (s.drawWord.2.divided 0xFFFF r false v c)) :
    Completes i s [.a, .b, .x] [(.z, false), (.v, v), (.c, c)] fun t => t.x = 0xFFFF :=
  Completes_of_Writes he (Writes_trans (Writes_drawWord s) (Writes_divided _ _ _ _ _ _)) (divided_x _ _ _ _ _ _)

/-- Settles O50: MUL has all 16 bits of the product; a division has a quotient of 16 bits, or $FFFF in its place. -/
theorem multiplyDivide : Obligations.MultiplyDivide := by
  refine ⟨fun s => ?mul, fun s hx => ?idiv, fun s hx => ?idivZero, fun s h => ?fdiv, fun s h => ?fdivOverflow⟩
  case mul =>
    have hbit : (BitVec.ofNat 16 (s.a.toNat * s.b.toNat)).getLsbD 7 = (s.a.toNat * s.b.toNat).testBit 7 := by
      rw [BitVec.getLsbD_ofNat, decide_eq_true (by decide), Bool.true_and]
    have hprod : (BitVec.ofNat 16 (s.a.toNat * s.b.toNat)).toNat = s.a.toNat * s.b.toNat := by
      rw [BitVec.toNat_ofNat, Nat.mod_eq_of_lt (byte_mul_lt s.a s.b)]
    have hw := Writes_then_flags (Writes_set16 s .d (BitVec.ofNat 16 (s.a.toNat * s.b.toNat)))
      (Writes_putFlag _ .c ((BitVec.ofNat 16 (s.a.toNat * s.b.toNat)).getLsbD 7))
    refine Completes_of_Writes rfl (hbit ▸ hw) ?_
    exact (congrArg BitVec.toNat ((get16_putFlag _ .c _ .d).trans (get16_set16 s .d _))).trans hprod
  case idiv =>
    have hpos : 0 < s.x.toNat := Nat.pos_of_ne_zero fun h0 => hx (BitVec.eq_of_toNat_eq h0)
    exact division_completes (if_neg hx) hpos ((Nat.div_le_self _ _).trans_lt s.d.isLt)
  case idivZero => exact no_quotient_completes (if_pos hx)
  case fdiv =>
    exact division_completes (if_neg (Nat.not_le.2 h)) (Nat.zero_lt_of_lt h)
      (Nat.div_lt_of_lt_mul (Nat.mul_lt_mul_of_pos_right h (by decide)))
  case fdivOverflow => exact no_quotient_completes (if_pos h)

end Sys2Proof.Machine
end

section
/-! PROOFS. The logic instructions (R301 to R308) and those that write single flags of CCR (R312 to R319, D27). -/

namespace Sys2Proof.Machine

/-! ## AND, exclusive OR, OR and bit test -/

/-- A logic instruction once its operand has been read: the accumulator is that from before the operand (R300). -/
theorem logicMem8_of_opnd8 {g : Byte → Byte → Byte} {s s1 : State} {r : Reg8} {op : Src8} {m : Byte}
    (h : s.opnd8 op = .ok (m, s1)) :
    logicMem8 g r op s = .next ((s1.set8 r (g (s.get8 r) m)).logicFlags (g (s.get8 r) m)) := by
  rw [← get8_of_Operand (opnd8_frame s op m s1 h), logicMem8, h, ok_bind, outcome_ok]

/-- BITA and BITB once their operand has been read (R303, R304). -/
theorem bitTest8_of_opnd8 {s s1 : State} {r : Reg8} {op : Src8} {m : Byte} (h : s.opnd8 op = .ok (m, s1)) :
    bitTest8 r op s = .next (s1.logicFlags (s.get8 r &&& m)) := by
  rw [← get8_of_Operand (opnd8_frame s op m s1 h), bitTest8, h, ok_bind, outcome_ok]

/-- The eight forms of a core instruction are those that the encoder writes for it. -/
theorem EightForms8_of_encode {o : Byte} {f : Src8 → Instr}
    (h : ∀ op, (f op).wellFormed = true ∧ (f op).core = f op ∧ encode (f op) = op.encodeOp o) : EightForms8 o f := by
  refine EightForms8_of_decode fun op rest => ?_
  obtain ⟨hwf, hcore, henc⟩ := h op
  rw [← henc, decodeEncode (f op) rest hwf, hcore]

/-- Settles O51: once its operand is read, a logic instruction is a load of the combined byte, and a bit test is the flags of
that byte alone. -/
theorem logicInstructions : Obligations.LogicInstructions := by
  refine ⟨fun p hp => ?forms, fun p hp op s s1 m r hop hr => ?logic, fun p hp op s s1 m r hop hr => ?test⟩
  case forms =>
    refine EightForms8_of_encode fun op => ?_
    fin_cases hp <;> exact ⟨rfl, rfl, rfl⟩
  case logic =>
    subst hr
    have hexec : exec (p.2.1 op) s = logicMem8 p.2.2 p.1 op s := by fin_cases hp <;> rfl
    exact load_completes (hexec.trans (logicMem8_of_opnd8 hop)) (opnd8_frame s op m s1 hop) (Writes_set8 s1 p.1 _)
      (not_mem_adjusts_of_reg8Names _ p.1) ((get8_logicFlags _ _ p.1).trans (get8_set8 s1 p.1 _))
  case test =>
    subst hr
    have hexec : exec (p.2 op) s = bitTest8 p.1 op s := by fin_cases hp <;> rfl
    exact Completes_of_Operand_flags (hexec.trans (bitTest8_of_opnd8 hop)) (opnd8_frame s op m s1 hop)
      (Writes_logicFlags s1 _)

/-! ## Condition codes -/

/-- A change of CCR alone writes the flags that it gives a value, if it keeps the others. -/
theorem Writes_of_flags {s t : State} {fl : List (Flag × Bool)} (ht : t = { s with ccr := t.ccr })
    (hset : ∀ p ∈ fl, t.flag p.1 = p.2) (hkept : ∀ f, f ∉ fl.map Prod.fst → t.flag f = s.flag f) :
    s.Writes t [] fl [] where
  effect :=
    { regs := fun q _ => by rw [ht]; cases q <;> rfl
      flagsSet := hset
      flagsKept := fun f hf _ => hkept f hf
      stopped := by rw [ht]
      inputs := by rw [ht]
      cfg := by rw [ht] }
  mem := fun a => by rw [ht]; rfl
  pc := by rw [ht]

/-- ANDCC writes every flag (R312). -/
theorem Writes_andCcr (s : State) (ii : Byte) :
    s.Writes (s.andCcr ii) [] [(.s, s.flag .s && ii.getLsbD 7), (.x, s.flag .x && ii.getLsbD 6),
      (.h, s.flag .h && ii.getLsbD 5), (.i, s.flag .i && ii.getLsbD 4), (.n, s.flag .n && ii.getLsbD 3),
      (.z, s.flag .z && ii.getLsbD 2), (.v, s.flag .v && ii.getLsbD 1), (.c, s.flag .c && ii.getLsbD 0)] [] := by
  refine Writes_of_flags rfl ?set fun f hf => ?kept
  case set => simp [ccrFlag, Flag.pos]
  case kept => cases f <;> simp at hf

/-- ORCC writes every flag but X (R313, D27). -/
theorem Writes_orCcr (s : State) (ii : Byte) :
    s.Writes (s.orCcr ii) [] [(.s, s.flag .s || ii.getLsbD 7), (.h, s.flag .h || ii.getLsbD 5),
      (.i, s.flag .i || ii.getLsbD 4), (.n, s.flag .n || ii.getLsbD 3), (.z, s.flag .z || ii.getLsbD 2),
      (.v, s.flag .v || ii.getLsbD 1), (.c, s.flag .c || ii.getLsbD 0)] [] := by
  refine Writes_of_flags rfl ?set fun f hf => ?kept
  case set => simp [ccrFlag, Flag.pos]
  case kept =>
    obtain rfl : f = .x := by cases f <;> simp at hf ⊢
    rw [flag_orCcr, if_pos rfl]

/-- Settles O52: ANDCC and ORCC act flag by flag; the mask of an alias is one flag put. -/
theorem maskInstructions : Obligations.MaskInstructions := by
  refine ⟨fun s ii => ?andcc, fun s ii => ?orcc, fun p hp s => ?oneFlag⟩
  case andcc => exact Completes_of_Writes rfl (Writes_andCcr s ii) trivial
  case orcc => exact Completes_of_Writes rfl (Writes_orCcr s ii) trivial
  case oneFlag =>
    have hexec : exec p.1 s = .next (s.putFlag p.2.1 p.2.2) := by fin_cases hp <;> rfl
    exact Completes_of_Writes hexec (Writes_putFlag s p.2.1 p.2.2) trivial

end Sys2Proof.Machine
end

section
/-! PROOFS. The shifts and rotates (R341 to R363): the arithmetic value of each result and its top bit, then one rule for all of
them, since they write their flags alike (R341). -/

namespace Sys2Proof.Machine

/-! ## Shifts left -/

theorem shiftLeft_one_eq_ofNat {w : Nat} (v : BitVec w) : v <<< 1 = BitVec.ofNat w (2 * v.toNat) := by
  apply BitVec.eq_of_toNat_eq
  rw [BitVec.toNat_shiftLeft, BitVec.toNat_ofNat, Nat.shiftLeft_eq, Nat.pow_one, Nat.mul_comm]

theorem msb_shiftLeft_one (v : Byte) : (v <<< 1).msb = v.getLsbD 6 := BitVec.msb_shiftLeft

theorem setWidth_ofBool (c : Bool) : (BitVec.ofBool c).setWidth 8 = BitVec.ofNat 8 c.toNat := by cases c <;> rfl

/-- The bit that a rotate left brings in goes to the place that the shift has emptied (R358). -/
theorem rotateLeft_eq_ofNat (v : Byte) (c : Bool) :
    (v <<< 1) ||| (BitVec.ofBool c).setWidth 8 = BitVec.ofNat 8 (2 * v.toNat + c.toNat) := by
  have hdisjoint : (v <<< 1) &&& (BitVec.ofBool c).setWidth 8 = 0 := by
    ext i hi
    cases i <;> simp
  rw [← BitVec.add_eq_or_of_and_eq_zero _ _ hdisjoint, shiftLeft_one_eq_ofNat, setWidth_ofBool, BitVec.ofNat_add]

theorem msb_rotateLeft (v : Byte) (c : Bool) : ((v <<< 1) ||| (BitVec.ofBool c).setWidth 8).msb = v.getLsbD 6 := by
  have hin : ((BitVec.ofBool c).setWidth 8).msb = false := by cases c <;> rfl
  rw [BitVec.msb_or, msb_shiftLeft_one, hin, Bool.or_false]

/-! ## Shifts right -/

theorem ushiftRight_one_eq_ofNat {w : Nat} (v : BitVec w) : v >>> 1 = BitVec.ofNat w (v.toNat / 2) := by
  apply BitVec.eq_of_toNat_eq
  rw [BitVec.toNat_ushiftRight, BitVec.toNat_ofNat, Nat.shiftRight_one, Nat.mod_eq_of_lt (by omega)]

theorem msb_ushiftRight_one {w : Nat} (v : BitVec w) : (v >>> 1).msb = false := BitVec.msb_ushiftRight

/-- Bit 7 kept in place makes the shift right one of a signed number (R347). -/
theorem ushiftRight_or_sign_eq (v : Byte) : (v >>> 1) ||| (v &&& 0x80) = v.sshiftRight 1 := by
  have hsign : ∀ i, i < 8 → (0x80 : Byte).getLsbD i = decide (i = 7) := by decide
  apply BitVec.eq_of_getLsbD_eq
  intro i hi
  rw [BitVec.getLsbD_or, BitVec.getLsbD_ushiftRight, BitVec.getLsbD_and, hsign i hi, BitVec.getLsbD_sshiftRight,
    BitVec.msb_eq_getLsbD_last]
  obtain rfl | hne := eq_or_ne i 7
  · simp
  · have hlt : 1 + i < 8 := by omega
    simp [hne, hlt, hi]

theorem arithmeticRight_eq_ofInt (v : Byte) : (v >>> 1) ||| (v &&& 0x80) = BitVec.ofInt 8 (v.toInt / 2) := by
  rw [ushiftRight_or_sign_eq, BitVec.sshiftRight_eq, Int.shiftRight_eq_div_pow, pow_one, Nat.cast_ofNat]

theorem msb_arithmeticRight (v : Byte) : ((v >>> 1) ||| (v &&& 0x80)).msb = v.getLsbD 7 := by
  rw [ushiftRight_or_sign_eq, BitVec.msb_sshiftRight, BitVec.msb_eq_getLsbD_last]

theorem setWidth_ofBool_shiftLeft (c : Bool) :
    (BitVec.ofBool c).setWidth 8 <<< 7 = BitVec.ofNat 8 (128 * c.toNat) := by cases c <;> rfl

/-- The bit that a rotate right brings in goes to the place that the shift has emptied (R361). -/
theorem rotateRight_eq_ofNat (v : Byte) (c : Bool) :
    (v >>> 1) ||| ((BitVec.ofBool c).setWidth 8 <<< 7) = BitVec.ofNat 8 (v.toNat / 2 + 128 * c.toNat) := by
  have hdisjoint : (v >>> 1) &&& ((BitVec.ofBool c).setWidth 8 <<< 7) = 0 := by
    ext i hi
    obtain rfl | hlt : i = 7 ∨ i < 7 := by omega
    · simp
    · simp [hlt]
  rw [← BitVec.add_eq_or_of_and_eq_zero _ _ hdisjoint, ushiftRight_one_eq_ofNat, setWidth_ofBool_shiftLeft,
    BitVec.ofNat_add]

theorem msb_rotateRight (v : Byte) (c : Bool) :
    ((v >>> 1) ||| ((BitVec.ofBool c).setWidth 8 <<< 7)).msb = c := by
  have hin : ((BitVec.ofBool c).setWidth 8 <<< 7).msb = c := by cases c <;> rfl
  rw [BitVec.msb_or, msb_ushiftRight_one, hin, Bool.false_or]

/-! ## One rule for the bytes, one for D -/

/-- An operation on a byte that shifts out the bit `out`, with result `r` (R341): `g` is the value of `r`, `n` its top bit. -/
theorem OpSpec_of_shiftOut {op : State → Byte → Byte × State} {g r : Bool → Byte → Byte} {n : Bool → Byte → Bool}
    {out : Byte → Bool}
    (hop : ∀ s v, op s v = (r (s.flag .c) v, s.aluFlags (shiftOut (r (s.flag .c) v) (out v))))
    (hvalue : ∀ c v, r c v = g c v) (hmsb : ∀ c v, (r c v).msb = n c v) :
    OpSpec op g fun c v => [(.n, n c v), (.z, g c v == 0), (.v, n c v != out v), (.c, out v)] where
  result s v := by rw [hop, hvalue]
  flags s v := by
    rw [hop, ← hvalue, ← hmsb]
    exact Writes_aluFlags s _
  mem s v := by rw [hop, aluFlags_mem]

theorem OpSpec_asl : OpSpec aslOp (fun _ v => BitVec.ofNat 8 (2 * v.toNat)) fun _ v =>
    [(.n, v.getLsbD 6), (.z, BitVec.ofNat 8 (2 * v.toNat) == 0), (.v, v.getLsbD 6 != v.getLsbD 7), (.c, v.getLsbD 7)] :=
  OpSpec_of_shiftOut (fun _ _ => rfl) (fun _ => shiftLeft_one_eq_ofNat) fun _ => msb_shiftLeft_one

theorem OpSpec_asr : OpSpec asrOp (fun _ v => BitVec.ofInt 8 (v.toInt / 2)) fun _ v =>
    [(.n, v.getLsbD 7), (.z, BitVec.ofInt 8 (v.toInt / 2) == 0), (.v, v.getLsbD 7 != v.getLsbD 0), (.c, v.getLsbD 0)] :=
  OpSpec_of_shiftOut (fun _ _ => rfl) (fun _ => arithmeticRight_eq_ofInt) fun _ => msb_arithmeticRight

/-- A cleared bit 7 leaves V the bit shifted out (R354). -/
theorem OpSpec_lsr : OpSpec lsrOp (fun _ v => BitVec.ofNat 8 (v.toNat / 2)) fun _ v =>
    [(.n, false), (.z, BitVec.ofNat 8 (v.toNat / 2) == 0), (.v, v.getLsbD 0), (.c, v.getLsbD 0)] := by
  have h := OpSpec_of_shiftOut (op := lsrOp) (fun _ _ => rfl) (fun _ => ushiftRight_one_eq_ofNat) fun _ =>
    msb_ushiftRight_one
  simpa only [Bool.false_bne] using h

theorem OpSpec_rol : OpSpec rolOp (fun c v => BitVec.ofNat 8 (2 * v.toNat + c.toNat)) fun c v =>
    [(.n, v.getLsbD 6), (.z, BitVec.ofNat 8 (2 * v.toNat + c.toNat) == 0), (.v, v.getLsbD 6 != v.getLsbD 7),
     (.c, v.getLsbD 7)] :=
  OpSpec_of_shiftOut (fun _ _ => rfl) (fun c v => rotateLeft_eq_ofNat v c) fun c v => msb_rotateLeft v c

theorem OpSpec_ror : OpSpec rorOp (fun c v => BitVec.ofNat 8 (v.toNat / 2 + 128 * c.toNat)) fun c v =>
    [(.n, c), (.z, BitVec.ofNat 8 (v.toNat / 2 + 128 * c.toNat) == 0), (.v, c != v.getLsbD 0), (.c, v.getLsbD 0)] :=
  OpSpec_of_shiftOut (fun _ _ => rfl) (fun c v => rotateRight_eq_ofNat v c) fun c v => msb_rotateRight v c

/-- A shift of D that shifts out the bit `out` (R346, R357). -/
theorem shiftD_completes {i : Instr} {s : State} {r : Word} {out : Bool}
    (he : exec i s = .next (s.shiftD (shiftOut r out))) :
    Completes i s [.a, .b] [(.n, r.msb), (.z, r == 0), (.v, r.msb != out), (.c, out)] fun t => t.d = r :=
  Completes_of_Writes he (Writes_then_flags (Writes_set16 s .d r) (Writes_aluFlags _ (shiftOut r out)))
    (get16_set16 s .d r)

/-! ## The shift instructions -/

/-- Settles O55: the byte shifts are the shape of R245 with an operation that shifts one bit out, ASLD and LSRD are that
on D. -/
theorem shiftInstructions : Obligations.ShiftInstructions := by
  refine ⟨fun p hp => ?asl, ?asr, ?lsr, ?rol, ?ror, fun i hi s r hr => ?asld, fun s r hr => ?lsrd⟩
  case asl => fin_cases hp <;> exact OneOperand_of_OpSpec OpSpec_asl (fun _ _ => rfl) (fun _ => rfl) fun _ => rfl
  case asr => exact OneOperand_of_OpSpec OpSpec_asr (fun _ _ => rfl) (fun _ => rfl) fun _ => rfl
  case lsr => exact OneOperand_of_OpSpec OpSpec_lsr (fun _ _ => rfl) (fun _ => rfl) fun _ => rfl
  case rol => exact OneOperand_of_OpSpec OpSpec_rol (fun _ _ => rfl) (fun _ => rfl) fun _ => rfl
  case ror => exact OneOperand_of_OpSpec OpSpec_ror (fun _ _ => rfl) (fun _ => rfl) fun _ => rfl
  case asld =>
    have hexec : exec i s = .next (s.shiftD (shiftOut (s.d <<< 1) s.d.msb)) := by
      rw [BitVec.msb_eq_getLsbD_last]
      fin_cases hi <;> rfl
    have hvalue : s.d <<< 1 = r :=
      BitVec.eq_of_toNat_eq (by rw [shiftLeft_one_eq_ofNat, BitVec.toNat_ofNat, hr])
    exact shiftD_completes (hvalue ▸ hexec)
  case lsrd =>
    obtain rfl : s.d >>> 1 = r :=
      BitVec.eq_of_toNat_eq (by rw [BitVec.toNat_ushiftRight, Nat.shiftRight_one, hr])
    have h := shiftD_completes (i := .lsrd) (s := s) (r := s.d >>> 1) (out := s.d.getLsbD 0) rfl
    rwa [msb_ushiftRight_one, Bool.false_bne] at h

end Sys2Proof.Machine
end

section
/-! PROOFS. Instructions without an operand in memory that go on at `npc` or branch: the short branches (R371 to R389), the
loop primitives (R400 to R406) and NOP (R410). -/

namespace Sys2Proof.Machine

/-! ## NOP -/

/-- Settles O60: a quiet boundary before the byte `A7` runs NOP, which changes nothing. -/
theorem nopDoesNothing : Obligations.NopDoesNothing := by
  have hdecode : ∀ rest, decode (0xA7 :: rest) = .ok (.nop, rest) := fun _ => rfl
  exact ⟨hdecode, fun _ => rfl, fun s hq hc => stepRunsDecoded s [0xA7] .nop hq (hdecode []) hc⟩

/-! ## Short branches -/

/-- A short branch whose condition, as the model writes it, is the `d` of R372. -/
theorem branchIf_completes {i : Instr} {s : State} {c d : Bool} {rr : Byte} (he : exec i s = branchIf c rr s) (h : c = d) :
    CompletesAt i s [] (if d then s.pc + BitVec.ofInt 16 rr.toInt else s.pc) fun _ => True :=
  h ▸ CompletesAt_of_branch he (Writes_refl s) trivial

/-- Settles O56: the model's conditions are those of R372, the order conditions up to Boolean algebra. -/
theorem shortBranches : Obligations.ShortBranches := by
  simp only [Obligations.ShortBranches, List.forall_mem_cons]
  refine ⟨?bra, ?bcc, ?bhs, ?bcs, ?blo, ?bne, ?beq, ?bvc, ?bvs, ?bpl, ?bmi, ?bhi, ?bls, ?bge, ?blt, ?bgt, ?ble, nofun⟩
  case bra => exact fun s _ => CompletesAt_of_jump rfl (Writes_refl s) trivial
  case bhi => exact fun _ _ => branchIf_completes rfl (Bool.not_or _ _).symm
  case bge => exact fun _ _ => branchIf_completes rfl (beq_eq_not_xor _ _)
  case bgt => exact fun _ _ => branchIf_completes rfl (by rw [Bool.not_or, beq_eq_not_xor])
  all_goals exact fun _ _ => branchIf_completes rfl rfl

/-! ## Loop primitives -/

theorem toNat_add_ofInt {w : Nat} (v : BitVec w) (k : Int) :
    ((v + BitVec.ofInt w k).toNat : Int) = ((v.toNat : Int) + k) % (2 ^ w : Nat) := by
  have hpos : (0 : Int) ≤ k % (2 ^ w : Nat) := Int.emod_nonneg _ (by positivity)
  rw [BitVec.toNat_add, BitVec.toNat_ofInt, Int.natCast_mod, Int.natCast_add, Int.toNat_of_nonneg hpos, Int.add_emod_emod]

/-- Stepping a counter by any integer, down or up, adds to its value modulo its width (R400). -/
theorem cntrVal_cntrAdd_int (s : State) (c : Cntr) (k : Int) :
    ((s.cntrAdd c k).cntrVal c : Int) = ((s.cntrVal c : Int) + k) % cntrModulus c := by
  cases c with
  | a => exact toNat_add_ofInt s.a k
  | b => exact toNat_add_ofInt s.b k
  | d => exact (congrArg (fun v : Word => (v.toNat : Int)) (get16_set16 s .d _)).trans (toNat_add_ofInt s.d k)
  | x => exact toNat_add_ofInt s.x k
  | y => exact toNat_add_ofInt s.y k
  | sp => exact toNat_add_ofInt s.sp k

theorem cntrAdd_zero (s : State) (c : Cntr) : s.cntrAdd c 0 = s := by
  cases c <;> simp [State.cntrAdd, State.setD, d_def]

/-- A counter's step writes the counter alone. -/
theorem Writes_cntrAdd (s : State) (c : Cntr) (k : Int) : s.Writes (s.cntrAdd c k) (cntrNames c) [] [] := by
  cases c with
  | a => exact Writes_set8 s .a _
  | b => exact Writes_set8 s .b _
  | d => exact Writes_set16 s .d _
  | x => exact Writes_set16 s .x _
  | y => exact Writes_set16 s .y _
  | sp => exact Writes_set16 s .sp _

/-- A step by zero writes no register (R405, R406). -/
theorem Writes_cntrAdd_of_step (s : State) (c : Cntr) (k : Int) :
    s.Writes (s.cntrAdd c k) (if k = 0 then [] else cntrNames c) [] [] := by
  split
  next hk => rw [hk, cntrAdd_zero]; exact Writes_refl s
  next => exact Writes_cntrAdd s c k

theorem cntrVal_branch (s : State) (b : Bool) (a : Word) (c : Cntr) : (s.branch b a).cntrVal c = s.cntrVal c := by
  cases b <;> rfl

/-- TBEQ is the loop primitive that steps by zero and branches on zero (R405). -/
theorem execTbeq_eq_loopOp (c : Cntr) (rel : BitVec 9) (s : State) : execTbeq c rel s = loopOp 0 true c rel s := by
  rw [execTbeq, loopOp, cntrAdd_zero, beq_true]

/-- TBNE is the loop primitive that steps by zero and branches on what is not zero (R406). -/
theorem execTbne_eq_loopOp (c : Cntr) (rel : BitVec 9) (s : State) : execTbne c rel s = loopOp 0 false c rel s := by
  rw [execTbne, loopOp, cntrAdd_zero, beq_false]

/-- A loop primitive: the counter steps by `step`, and the branch is taken if its new value being zero is `onZero` (R400). -/
theorem loopOp_completes {i : Instr} {s : State} {c : Cntr} {rel : BitVec 9} {step k : Int} {onZero : Bool}
    (he : exec i s = loopOp step onZero c rel s) (hk : k = ((s.cntrVal c : Int) + step) % cntrModulus c) :
    CompletesAt i s (if step = 0 then [] else cntrNames c)
      (if decide (k = 0) = onZero then s.pc + BitVec.ofInt 16 rel.toInt else s.pc) fun t => (t.cntrVal c : Int) = k := by
  have hw := Writes_cntrAdd_of_step s c step
  have hval : ((s.cntrAdd c step).cntrVal c : Int) = k := (cntrVal_cntrAdd_int s c step).trans hk.symm
  have hzero : (s.cntrAdd c step).cntrZero c = decide (k = 0) := by
    rw [cntrZero_eq, ← hval, Bool.eq_iff_iff, beq_iff_eq, decide_eq_true_iff, Int.natCast_eq_zero]
  have htarget : (s.cntrAdd c step).relTarget rel = s.pc + BitVec.ofInt 16 rel.toInt := congrArg (· + _) hw.pc
  have hrun : exec i s = .next ((s.cntrAdd c step).branch (decide (k = 0) == onZero) (s.pc + BitVec.ofInt 16 rel.toInt)) := by
    rw [he, loopOp, hzero, htarget]
  have h := CompletesAt_of_branch hrun hw (post := fun t => (t.cntrVal c : Int) = k)
    ((congrArg Nat.cast (cntrVal_branch _ _ _ c)).trans hval)
  simpa only [beq_iff_eq] using h

/-- The bytes `04 lb rr` with the code of a primitive and of a counter (R115). -/
theorem decode_loop_fields {op : BitVec 3} {f : Cntr → BitVec 9 → Instr} (hf : loopOfCode op = some f) (c : Cntr)
    (sign : BitVec 1) (rr : Byte) (rest : List Byte) :
    decode (0x04 :: (op ++ sign ++ (0#1 : BitVec 1) ++ c.code) :: rr :: rest) = .ok (f c (sign ++ rr), rest) := by
  obtain ⟨hsign, hlow⟩ := sign_append_low sign rr
  have h := decode_loopBytes hf c (sign ++ rr) rest
  rwa [loopBytes, hsign, hlow] at h

/-- Settles O59: the codes are those of R115, and the six are one loop primitive with its step and its condition. -/
theorem loopPrimitives : Obligations.LoopPrimitives := by
  refine ⟨fun p hp q hq sign rr rest => ?encoding, fun p hp c rel s k hk => ?effect⟩
  case encoding =>
    have hprimitive : loopOfCode p.1 = some p.2 := by fin_cases hp <;> rfl
    have hcounter : q.1 = q.2.code := by fin_cases hq <;> rfl
    rw [hcounter]
    exact decode_loop_fields hprimitive q.2 sign rr rest
  case effect =>
    have hexec : exec (p.1 c rel) s = loopOp p.2.1 p.2.2 c rel s := by
      fin_cases hp
      exacts [rfl, rfl, rfl, rfl, execTbeq_eq_loopOp c rel s, execTbne_eq_loopOp c rel s]
    exact loopOp_completes hexec hk

end Sys2Proof.Machine
end

section
/-! PROOFS. An exception and its return (R421 to R423, R451): a handler that leaves the nine bytes of the frame alone hands RTI the
same frame, and RTI loads from a frame the state it was pushed in, CCR through `LoadCCR`. -/

namespace Sys2Proof.Machine

/-! ## The frame of an exception -/

theorem wordAt_of_bytes {t h : State} {a : Word} (hhi : h.byteAt a = t.byteAt a)
    (hlo : h.byteAt (a + 1) = t.byteAt (a + 1)) : h.wordAt a = t.wordAt a := congrArg₂ mkWord hhi hlo

/-- A frame is its nine bytes: where they agree the same frame lies (R80). -/
theorem FrameAt_of_bytes {s t h : State} {p : Word} (hf : t.FrameAt p s)
    (hb : ∀ k, k < 9 → h.byteAt (p + BitVec.ofNat 16 k) = t.byteAt (p + BitVec.ofNat 16 k)) : h.FrameAt p s := by
  obtain ⟨-, u4, u6, u8, u0⟩ := frame_up p
  have byte : ∀ k a, k < 9 → a = p + BitVec.ofNat 16 k → h.byteAt a = t.byteAt a := fun k _ hk e => e ▸ hb k hk
  exact {
    ccr := (byte 0 p (by decide) u0).trans hf.ccr
    b := (byte 1 _ (by decide) rfl).trans hf.b
    a := (byte 2 _ (by decide) rfl).trans hf.a
    x := (wordAt_of_bytes (byte 3 _ (by decide) rfl) (byte 4 _ (by decide) u4)).trans hf.x
    y := (wordAt_of_bytes (byte 5 _ (by decide) rfl) (byte 6 _ (by decide) u6)).trans hf.y
    rtn := (wordAt_of_bytes (byte 7 _ (by decide) rfl) (byte 8 _ (by decide) u8)).trans hf.rtn }

/-! ## SWI and RTI -/

/-- SWI on plain memory (R421, R441). -/
theorem exec_swi_plain (s : State) (hw : Memory.wf s.mem) (h : s.PlainFrom .write (s.sp - 9) 9)
    (hv : s.PlainFrom .read s.cfg.swiVector 2) :
    ∃ t, exec .swi s = .next t ∧
      t = { s with sp := s.sp - 9, pc := t.wordAt s.cfg.swiVector, ccr := entryCcr s.ccr false, mem := t.mem, stale := [],
                   stopped := false } ∧
      t.FrameAt (s.sp - 9) s ∧ s.SameMemBut t (s.sp - 9) 9 := by
  obtain ⟨t, hrun, ht, hframe, hmem, -⟩ := takeException_plain s s.cfg.swiVector false hw h hv
  exact ⟨t, congrArg outcome hrun, ht, hframe, hmem⟩

/-- RTI with SP at the frame of `s` (R422, R423). -/
theorem exec_rti_of_FrameAt {s h : State} (hf : h.FrameAt h.sp s) (hp : h.PlainFrom .read h.sp 9) :
    exec .rti h = .next { h with
      a := s.a, b := s.b, x := s.x, y := s.y, sp := h.sp + 9, pc := s.pc, ccr := ccrLoad h.ccr s.ccr, stale := [] } := by
  rw [exec_rti_plain h hp, hf.ccr, hf.b, hf.a, hf.x, hf.y, hf.rtn]

/-- Settles O31: the handler hands RTI the frame that SWI pushed, and RTI loads the state before SWI from it. -/
theorem swiRtiRoundTrip : Obligations.SwiRtiRoundTrip := by
  intro s t h hw hwrite hread hvector hswi hcfg hsp hbytes
  obtain ⟨t', hrun, ht, hframe, -⟩ := exec_swi_plain s hw hwrite hvector
  obtain rfl : t' = t := Host.Outcome.next.inj (hrun.symm.trans hswi)
  have htsp : t'.sp = s.sp - 9 := congrArg State.sp ht
  have hhsp : h.sp = s.sp - 9 := hsp.trans htsp
  have hhcfg : h.cfg = s.cfg := hcfg.trans (congrArg State.cfg ht :)
  have hhframe : h.FrameAt h.sp s := hhsp ▸ FrameAt_of_bytes hframe (htsp ▸ hbytes)
  have hhread : h.PlainFrom .read h.sp 9 := hhsp ▸ PlainFrom_congr hhcfg hread
  have hspBack : h.sp + 9 = s.sp := by rw [hhsp, BitVec.sub_add_cancel]
  have hflag : ∀ f, ccrFlag (ccrLoad h.ccr s.ccr) f = if f = .x then h.flag .x && s.flag .x else s.flag f :=
    ccrFlag_ccrLoad h.ccr s.ccr
  refine ⟨_, exec_rti_of_FrameAt hhframe hhread, ?regs, rfl, fun f hf => (hflag f).trans (if_neg hf), hflag .x,
    fun _ => rfl⟩
  case regs =>
    intro r
    cases r with
    | sp => exact hspBack
    | a | b | x | y => rfl

end Sys2Proof.Machine
end

section
/-! PROOFS. The boundary and SWI: a reset request (R450, R480), which request is entered (R445 to R447), the stopped CPU (R449,
R460), and the entry of SWI (R441). -/

namespace Sys2Proof.Machine

/-! ## Reset -/

/-- Settles O25: the boundary is a reset event, on the state with its input used up. -/
theorem resetEvent : Obligations.ResetEvent := by
  intro s inp rest hin hr hv
  have hpop : s.popInput.1 = inp := by rw [popInput_cons s inp rest hin]
  have hrun := resetEvent_plain { s with inputs := rest } hv
  have hstep : step s = outcome (State.resetEvent { s with inputs := rest }) := by
    rw [step_reset (hpop ▸ hr), hin, List.tail_cons]
  exact ⟨_, hstep.trans (congrArg outcome hrun), rfl, rfl, rfl, rfl, rfl, rfl, rfl, rfl, fun _ => rfl, rfl, rfl⟩

/-! ## The request that is entered -/

/-- A mask class is enabled by its own mask bit (R446, R447). -/
theorem classEnabled_iff (s : State) (c : MaskClass) :
    s.classEnabled c = true ↔ (c = .i → s.flag .i = false) ∧ (c = .x → s.flag .x = false) := by
  cases c <;> simp [State.classEnabled]

theorem pending_and_enabled_iff (s : State) (pending : List Nat) (q : IrqSource) :
    (pending.contains q.id && s.classEnabled q.cls) = true ↔
      q.id ∈ pending ∧ (q.cls = .i → s.flag .i = false) ∧ (q.cls = .x → s.flag .x = false) := by
  rw [Bool.and_eq_true, List.contains_iff_mem, classEnabled_iff]

/-- With both mask bits set no request can wake the CPU (R446, R447). -/
theorem canWake_of_masked {s : State} (hi : s.flag .i = true) (hx : s.flag .x = true) : s.canWake = false := by
  have hmasked : ∀ c, s.classEnabled c = false := fun c => by cases c <;> simp [State.classEnabled, hi, hx]
  simp [State.canWake, hmasked]

/-- Settles O26: the choice is the first of the list that is pending and enabled. -/
theorem interruptChoice : Obligations.InterruptChoice := by
  refine fun s pending => ⟨fun q => ?first, fun hi hx => chosenIrq_of_cannotWake s pending (canWake_of_masked hi hx)⟩
  case first =>
    simp only [State.chosenIrq, List.find?_eq_some_iff_append, Bool.not_eq_true', ← Bool.not_eq_true,
      pending_and_enabled_iff]
    constructor
    · rintro ⟨hq, before, after, hsplit, hbefore⟩
      exact ⟨before, after, hsplit, hq, hbefore⟩
    · rintro ⟨before, after, hsplit, hq, hbefore⟩
      exact ⟨hq, before, after, hsplit, hbefore⟩

/-! ## The stopped CPU -/

/-- A stopped CPU without an enabled request stays as it is; the input is used up (R449). -/
theorem step_stopped {s : State} (hs : s.stopped = true) (hr : s.popInput.1.reset = false)
    (hq : s.chosenIrq s.popInput.1.pending = none) : step s = .next { s with inputs := s.inputs.tail } := by
  have hq' := (chosenIrq_congr s { s with inputs := s.inputs.tail } s.popInput.1.pending rfl rfl).trans hq
  rw [step, boundary_eq s _ _ (popInput_eq s), hr, if_neg nofun, hq']
  simp only [hs, if_true, outcome_ok]

/-- The entry of a request on a stopped CPU pushes no frame, for STOP has pushed it (R449). -/
theorem enterIrq_stopped {s : State} {q : IrqSource} (hs : s.stopped = true) (hv : s.PlainFrom .read q.vector 2) :
    s.enterIrq q = .ok { s with
      pc := s.wordAt q.vector, ccr := entryCcr s.ccr (q.cls == .x), stale := [], stopped := false } := by
  rw [State.enterIrq, hs, Bool.not_true, takeException_noFrame s q.vector (q.cls == .x) hv]

/-- Settles O28: a chosen request enters without a frame; without one the boundary only uses up its input. -/
theorem wakeAndWait : Obligations.WakeAndWait := by
  refine ⟨fun s inp rest q hin hr hq hs hv => ?wake, fun s hs hr hq => step_stopped hs hr hq⟩
  case wake =>
    have hpop : s.popInput.1 = inp := by rw [popInput_cons s inp rest hin]
    have hstep : step s = outcome (State.enterIrq { s with inputs := rest } q) := by
      rw [step_enterIrq (q := q) (hpop ▸ hr) (hpop ▸ hq), hin, List.tail_cons]
    have henter := enterIrq_stopped (s := { s with inputs := rest }) hs hv
    have hflag : ∀ f, ccrFlag (entryCcr s.ccr (q.cls == .x)) f =
        if f = .i then true else if f = .x then q.cls == .x || s.flag .x else s.flag f :=
      ccrFlag_entryCcr s.ccr (q.cls == .x)
    refine ⟨_, hstep.trans (congrArg outcome henter), rfl, fun r => by cases r <;> rfl, fun _ => rfl, rfl, hflag .i,
      hflag .x, fun f hi hx => ?kept, rfl, rfl⟩
    case kept => exact (hflag f).trans (by rw [if_neg hi, if_neg hx])

/-! ## SWI -/

/-- Settles O29: SWI is an entry with a frame; of CCR it puts I alone. -/
theorem swiEntry : Obligations.SwiEntry := by
  refine ⟨fun _ => rfl, fun s hw hs hwr hrd => ?entry⟩
  case entry =>
    obtain ⟨t, hrun, ht, hframe, hmem⟩ := exec_swi_plain s hw hwr hrd
    have hflag : ∀ f, t.flag f = (s.putFlag .i true).flag f := fun f => congrArg (ccrFlag · f) (congrArg State.ccr ht :)
    have hput := (Writes_putFlag s .i true).effect
    refine ⟨t, hrun, ?effect, congrArg State.sp ht, hframe, hmem, congrArg State.pc ht⟩
    case effect =>
      exact {
        regs := fun r hr => by
          rw [ht]
          cases r with
          | sp => exact absurd List.mem_cons_self hr
          | a | b | x | y => rfl
        flagsSet := fun p hp => (hflag p.1).trans (hput.flagsSet p hp)
        flagsKept := fun f hf hn => (hflag f).trans (hput.flagsKept f hf hn)
        stopped := (congrArg State.stopped ht).trans hs.symm
        inputs := (congrArg State.inputs ht :)
        cfg := (congrArg State.cfg ht :) }

end Sys2Proof.Machine
end
